-- ==== Sys2Proof/Word.lean ====
section
/-! DEFINITION. The two bit-vector types of the block: a byte of a memory or of the wire, and a 16-bit message register. -/

namespace Sys2Proof

/-- One byte (00_scope.md R14: "a byte is 8 bits"). -/
abbrev Byte := BitVec 8

/-- A 16-bit register or field: identifier, length or checksum (10_state.md R30). -/
abbrev Word16 := BitVec 16

end Sys2Proof
end

