-- ==== Sys2Proof/Machine/Bytes.lean ====
section
/-! DEFINITION. Byte order and bit fields, once: a 16-bit value and its two bytes (20_memory.md R74, 30_encoding.md
R103), little-endian byte strings, and the byte sequence of a frame (30_encoding.md R100). -/

namespace Sys2Proof.Machine

/-- `v[7:0]`. -/
def lowByte (v : Word16) : Byte := v.extractLsb' 0 8

/-- `v[15:8]`. -/
def highByte (v : Word16) : Byte := v.extractLsb' 8 8

/-- `low | (high << 8)` (30_encoding.md R103). -/
def joinBytes (low high : Byte) : Word16 := high ++ low

/-- `v[7:0] <- b`, bits 15:8 kept (41_frame_decoder.md R156, R158, R161). -/
def withLowByte (v : Word16) (b : Byte) : Word16 := joinBytes b (highByte v)

/-- `v[15:8] <- b`, bits 7:0 kept (41_frame_decoder.md R157, R159, R162). -/
def withHighByte (v : Word16) (b : Byte) : Word16 := joinBytes (lowByte v) b

/-- The `n` low-order bytes of `v`, least significant first. -/
def leBytes : Nat → Nat → List Byte
  | 0, _ => []
  | n + 1, v => BitVec.ofNat 8 v :: leBytes n (v / 256)

/-- The number whose bytes these are, least significant first. -/
def leValue : List Byte → Nat
  | [] => 0
  | b :: bs => b.toNat + 256 * leValue bs

/-- The length field of a payload (00_scope.md R20: `payload` is a sequence of `len` bytes). -/
def lenField (payload : List Byte) : Word16 := BitVec.ofNat 16 payload.length

/-- The four header bytes, in the order of the wire and of the checksum (30_encoding.md R100, 42_checksum_engine.md
R190). -/
def headerBytes (id len : Word16) : List Byte := [lowByte id, highByte id, lowByte len, highByte len]

/-- The `8 + len` bytes of a frame in transmission order (30_encoding.md R100). -/
def frameBytes (sync0 sync1 : Byte) (id : Word16) (payload : List Byte) (ck : Word16) : List Byte :=
  [sync0, sync1] ++ headerBytes id (lenField payload) ++ payload ++ [lowByte ck, highByte ck]

end Sys2Proof.Machine
end

