-- ==== Sys2Proof/Config.lean ====
section
/-! DEFINITION. The implementation parameters (00_scope.md R12) and the free values the spec leaves unspecified. -/

namespace Sys2Proof

/-- Which byte transport is active (00_scope.md R12, 10_state.md R44). -/
inductive Transport where
  | serialQueued
  | usbDirect
  deriving DecidableEq, Repr

/-- The three byte memories of 00_scope.md R15. -/
inductive Space where
  | pl
  | qb
  | txm
  deriving DecidableEq, Repr

/-- The parameters the model takes as arguments (00_scope.md R12). They stand in State, where no operation
writes them, so a statement about every state is one about every instance. -/
structure Params where
  sync0       : Byte
  sync1       : Byte
  payloadCap  : Nat
  queueCap    : Nat
  tickW       : Nat
  resyncTicks : Nat
  transport   : Transport
  /-- An indicator pulse holds the poll loop for its duration (93_implementation_defined.md I26; log 24). -/
  pulseBlocks : Bool
  deriving DecidableEq, Repr

/-- The legal ranges of 00_scope.md R12. -/
abbrev Params.legal (p : Params) : Prop :=
  p.payloadCap ≤ 65535 ∧ 1 ≤ p.queueCap ∧ 15 ≤ p.tickW ∧ p.resyncTicks < 2 ^ (p.tickW - 1)

/-- The spec's illustrative instance (95_test_vectors.md, "How to read this file"): example values, not the
hardware's. DESIGN CHOICE, unsafe: the reset state carries it (log 4). -/
def Config.illustrative : Params where
  sync0 := 0xA5
  sync1 := 0x5A
  payloadCap := 16
  queueCap := 4
  tickW := 32
  resyncTicks := 10000
  transport := .serialQueued
  pulseBlocks := false

/-! Free values, safe: nothing in Lean can evaluate them. Those of the first group are drawn once per RESET and
persist until written (93_implementation_defined.md I10); their first argument is the number of the RESET (log 6). -/

/-- What a byte of `PL` or `QB` that nothing has written since the RESET number `epoch` holds. -/
opaque Config.memAtReset (epoch : Nat) (space : Space) (addr : Nat) : Byte

/-- `RX_ID` after RESET. -/
opaque Config.rxIdAtReset (epoch : Nat) : Word16

/-- `RX_LEN` after RESET. -/
opaque Config.rxLenAtReset (epoch : Nat) : Word16

/-- `RX_CK` after RESET. -/
opaque Config.rxCkAtReset (epoch : Nat) : Word16

/-- `REMAINING` after RESET. -/
opaque Config.remainingAtReset (epoch : Nat) : Word16

/-- `T_MARK` after RESET, to be reduced to `TICK_W` bits. -/
opaque Config.tMarkAtReset (epoch : Nat) : Nat

/-- `ENC_POS` after RESET. -/
opaque Config.encPosAtReset (epoch : Nat) : BitVec 17

/-- `TX_ID` after RESET. -/
opaque Config.txIdAtReset (epoch : Nat) : Word16

/-- `TX_LEN` after RESET. -/
opaque Config.txLenAtReset (epoch : Nat) : Word16

/-- `TX_CK` after RESET. -/
opaque Config.txCkAtReset (epoch : Nat) : Word16

/-! What a reader sees of the received message outside its validity window (10_state.md R34), and of a payload byte
past the message's length: any value, drawn afresh at each read (93_implementation_defined.md I11, I12; log 7). -/

/-- `RX_ID` as read outside the window, at the draw number `draw`. -/
opaque Config.staleId (draw : Nat) : Word16

/-- `RX_LEN` as read outside the window. -/
opaque Config.staleLen (draw : Nat) : Word16

/-- `RX_CK` as read outside the window. -/
opaque Config.staleCk (draw : Nat) : Word16

/-- The payload byte `i` as read outside the window, or inside it at an index past the message's length. -/
opaque Config.staleByte (draw : Nat) (i : Nat) : Byte

end Sys2Proof
end

