-- ==== Sys2Proof/Syntax.lean ====
section
/-! DEFINITION. The operations: one constructor per row of spec/opcode_table.json. -/

namespace Sys2Proof

/-- What `MSG_READ` reads (41_frame_decoder.md R164). -/
inductive MsgSel where
  | id
  | len
  | ck
  | payload
  deriving DecidableEq, Repr

/-- The sixteen operations of 30_encoding.md R109, the nine byte actions of R107 and the wire frame of R100.

A message operand is `(id, len, payload)` with `len` the number of payload bytes (00_scope.md R20), so `len` is not
carried beside the payload. -/
inductive Instr where
  /-- `RESET`, opsel 0. -/
  | reset
  /-- `Q_PUSH(x)`, opsel 1. -/
  | qPush (x : Byte)
  /-- `Q_POP`, opsel 2. -/
  | qPop
  /-- `STATUS_READ`, opsel 3. -/
  | statusRead
  /-- `STATUS_CLEAR(mask)`, opsel 4. -/
  | statusClear (mask : BitVec 2)
  /-- `DEC_STEP(tick)`, opsel 5; `tick` is a `TICK_W`-bit unsigned value. -/
  | decStep (tick : Nat)
  /-- `DEC_RESET`, opsel 6. -/
  | decReset
  /-- `MSG_READ(sel, i)`, opsel 7; `i` is used with `PAYLOAD` only. -/
  | msgRead (sel : MsgSel) (i : Word16)
  /-- `CK_INIT`, opsel 8. -/
  | ckInit
  /-- `CK_UPDATE(x)`, opsel 9. -/
  | ckUpdate (x : Byte)
  /-- `CK_RESULT`, opsel 10. -/
  | ckResult
  /-- `CK_MSG(id, len, payload)`, opsel 11. -/
  | ckMsg (id : Word16) (payload : List Byte)
  /-- `CK_VERIFY`, opsel 12. -/
  | ckVerify
  /-- `ENC_FRAME(id, len, payload, ck)`, opsel 13. -/
  | encFrame (id : Word16) (payload : List Byte) (ck : Word16)
  /-- `TX_SEND(id, len, payload)`, opsel 14. -/
  | txSend (id : Word16) (payload : List Byte)
  /-- `TX_SEND_EMPTY(id)`, opsel 15. -/
  | txSendEmpty (id : Word16)
  /-- The action on the consumed byte `b` in `AwaitSync0`, in a step whose tick is `tick`; `DSTATE` code 0. -/
  | actAwaitSync0 (tick : Nat) (b : Byte)
  /-- The action on `b` in `AwaitSync1`, code 1. -/
  | actAwaitSync1 (b : Byte)
  /-- The action on `b` in `IdentifierLow`, code 2. -/
  | actIdentifierLow (b : Byte)
  /-- The action on `b` in `IdentifierHigh`, code 3. -/
  | actIdentifierHigh (b : Byte)
  /-- The action on `b` in `LengthLow`, code 4. -/
  | actLengthLow (b : Byte)
  /-- The action on `b` in `LengthHigh`, code 5. -/
  | actLengthHigh (b : Byte)
  /-- The action on `b` in `Payload`, code 6. -/
  | actPayload (b : Byte)
  /-- The action on `b` in `ChecksumLow`, code 7. -/
  | actChecksumLow (b : Byte)
  /-- The action on `b` in `ChecksumHigh`, code 8. -/
  | actChecksumHigh (b : Byte)
  /-- One frame on the wire, `FRAME` of 30_encoding.md R100. -/
  | frame (id : Word16) (payload : List Byte) (ck : Word16)
  deriving DecidableEq, Repr

/-- Who acts on the block (00_scope.md R18), with the environment that resets it. -/
inductive Agent where
  | environment
  | producer
  | consumer
  | transport
  deriving DecidableEq, Repr

/-- The agent that owns an operation's port (30_encoding.md R109, 60_exceptions.md R266). The byte actions are the
consumer's, inside `DEC_STEP`; a frame arrives from the transport. -/
def Instr.agent : Instr → Agent
  | .reset => .environment
  | .qPush _ => .producer
  | .qPop => .consumer
  | .statusRead => .consumer
  | .statusClear _ => .consumer
  | .decStep _ => .consumer
  | .decReset => .consumer
  | .msgRead _ _ => .consumer
  | .ckInit => .consumer
  | .ckUpdate _ => .consumer
  | .ckResult => .consumer
  | .ckMsg _ _ => .consumer
  | .ckVerify => .consumer
  | .encFrame _ _ _ => .consumer
  | .txSend _ _ => .consumer
  | .txSendEmpty _ => .consumer
  | .actAwaitSync0 _ _ => .consumer
  | .actAwaitSync1 _ => .consumer
  | .actIdentifierLow _ => .consumer
  | .actIdentifierHigh _ => .consumer
  | .actLengthLow _ => .consumer
  | .actLengthHigh _ => .consumer
  | .actPayload _ => .consumer
  | .actChecksumLow _ => .consumer
  | .actChecksumHigh _ => .consumer
  | .frame _ _ _ => .transport

end Sys2Proof
end

