-- ==== Sys2Proof/WellFormed.lean ====
section
/-! DEFINITION. Which operands an operation may carry: a tick of `TICK_W` bits, a payload whose length a 16-bit field
can say. -/

namespace Sys2Proof

/-- A tick operand fits its width (30_encoding.md R109: "TICK_W bits"). -/
def tickFits (p : Params) (tick : Nat) : Bool := decide (tick < 2 ^ p.tickW)

/-- A payload's length fits the 16-bit length field (00_scope.md R20, 30_encoding.md R101). -/
def payloadFits (payload : List Byte) : Bool := decide (payload.length < 65536)

/-- The operands are of the widths of 30_encoding.md R109. The other operands' types give their widths. -/
def Instr.wellFormed (p : Params) : Instr → Bool
  | .reset => true
  | .qPush _ => true
  | .qPop => true
  | .statusRead => true
  | .statusClear _ => true
  | .decStep tick => tickFits p tick
  | .decReset => true
  | .msgRead _ _ => true
  | .ckInit => true
  | .ckUpdate _ => true
  | .ckResult => true
  | .ckMsg _ payload => payloadFits payload
  | .ckVerify => true
  | .encFrame _ payload _ => payloadFits payload
  | .txSend _ payload => payloadFits payload
  | .txSendEmpty _ => true
  | .actAwaitSync0 tick _ => tickFits p tick
  | .actAwaitSync1 _ => true
  | .actIdentifierLow _ => true
  | .actIdentifierHigh _ => true
  | .actLengthLow _ => true
  | .actLengthHigh _ => true
  | .actPayload _ => true
  | .actChecksumLow _ => true
  | .actChecksumHigh _ => true
  | .frame _ payload _ => payloadFits payload

end Sys2Proof
end

