-- ==== Sys2Proof/Decode.lean ====
section
/-! DEFINITION. From the bytes of an operation code to an operation, total and rejecting by name, and back.

The spec gives each operation its `opsel` and the widths of its operands and no operand bit positions (30_encoding.md
R109): the code format here is DESIGN CHOICE, unsafe only in what it calls an operation (log 1).
Byte 0 has the row's 4-bit code in bits 3:0 and the row's format in bits 7:4: 0 for an `OP` row (`opsel`), 1 for a
`DSTATE` row (the state's code), 2 for the `WIRE` row, whose bits 3:0 are 0 (30_encoding.md R112). The operands follow in
the table's order, each in whole bytes, least significant byte first; a payload follows its length. -/

namespace Sys2Proof

open Sys2Proof.Machine

/-- Why a byte string is no operation code. -/
inductive DecodeError where
  /-- There is no byte at all. -/
  | empty
  /-- Bits 7:4 of the first byte are none of the three formats, or bits 3:0 of a `WIRE` code are not 0. -/
  | reservedCode
  /-- The operand bytes are cut short. -/
  | truncated
  /-- A tick of more than `TICK_W` bits. -/
  | tickTooWide
  /-- A `STATUS_CLEAR` mask with bits above bit 1 (30_encoding.md R108 item 6: they do not exist). -/
  | maskTooWide
  /-- A `MSG_READ` selector other than the four of 41_frame_decoder.md R164. -/
  | badSelector
  /-- A `WIRE` code whose first two frame bytes are not `SYNC0`, `SYNC1` (30_encoding.md R100). -/
  | notSync
  /-- Bytes left over after a whole operation. -/
  | trailingBytes
  deriving DecidableEq, Repr

/-- What a decoder answers: a value and the bytes after it, or a name for the rejection. -/
abbrev Parsed (α : Type) := Except DecodeError (α × List Byte)

/-- Go on with the value that was read and the bytes after it. -/
def thenRead {α β : Type} (r : Parsed α) (k : α → List Byte → Parsed β) : Parsed β :=
  match r with
  | .error e => .error e
  | .ok (a, rest) => k a rest

/-- Bytes a tick operand takes. -/
def tickBytes (p : Params) : Nat := (p.tickW + 7) / 8

/-- The next `n` bytes. -/
def readBytes (n : Nat) (bs : List Byte) : Parsed (List Byte) :=
  if n ≤ bs.length then .ok (bs.take n, bs.drop n) else .error .truncated

/-- One operand byte. -/
def readByte : List Byte → Parsed Byte
  | [] => .error .truncated
  | b :: bs => .ok (b, bs)

/-- One 16-bit operand. -/
def readWord16 : List Byte → Parsed Word16
  | low :: high :: bs => .ok (joinBytes low high, bs)
  | _ => .error .truncated

/-- A tick operand of `TICK_W` bits. -/
def readTick (p : Params) (bs : List Byte) : Parsed Nat :=
  thenRead (readBytes (tickBytes p) bs) fun t rest =>
    if tickFits p (leValue t) then .ok (leValue t, rest) else .error .tickTooWide

/-- A 16-bit length and that many payload bytes. -/
def readPayload (bs : List Byte) : Parsed (List Byte) :=
  thenRead (readWord16 bs) fun len rest => readBytes len.toNat rest

/-- A `STATUS_CLEAR` mask. -/
def readMask (bs : List Byte) : Parsed (BitVec 2) :=
  thenRead (readByte bs) fun b rest =>
    if b.toNat < 4 then .ok (b.setWidth 2, rest) else .error .maskTooWide

/-- The selector byte of `MSG_READ`: 0 `ID`, 1 `LEN`, 2 `CK`, 3 `PAYLOAD`. -/
def readSel (bs : List Byte) : Parsed MsgSel :=
  thenRead (readByte bs) fun b rest =>
    match b.toNat with
    | 0 => .ok (.id, rest)
    | 1 => .ok (.len, rest)
    | 2 => .ok (.ck, rest)
    | 3 => .ok (.payload, rest)
    | _ => .error .badSelector

/-- A message operand without its checksum: identifier, length, payload. -/
def readMessage (bs : List Byte) : Parsed (Word16 × List Byte) :=
  thenRead (readWord16 bs) fun id r1 =>
    thenRead (readPayload r1) fun payload r2 => .ok ((id, payload), r2)

/-- The operands of the `OP` row with this `opsel` (30_encoding.md R109). -/
def decodeOp (p : Params) (opsel : Nat) (bs : List Byte) : Parsed Instr :=
  match opsel with
  | 0 => .ok (.reset, bs)
  | 1 => thenRead (readByte bs) fun x r => .ok (.qPush x, r)
  | 2 => .ok (.qPop, bs)
  | 3 => .ok (.statusRead, bs)
  | 4 => thenRead (readMask bs) fun mask r => .ok (.statusClear mask, r)
  | 5 => thenRead (readTick p bs) fun tick r => .ok (.decStep tick, r)
  | 6 => .ok (.decReset, bs)
  | 7 => thenRead (readSel bs) fun sel r => thenRead (readWord16 r) fun i r' => .ok (.msgRead sel i, r')
  | 8 => .ok (.ckInit, bs)
  | 9 => thenRead (readByte bs) fun x r => .ok (.ckUpdate x, r)
  | 10 => .ok (.ckResult, bs)
  | 11 => thenRead (readMessage bs) fun m r => .ok (.ckMsg m.1 m.2, r)
  | 12 => .ok (.ckVerify, bs)
  | 13 => thenRead (readMessage bs) fun m r => thenRead (readWord16 r) fun ck r' => .ok (.encFrame m.1 m.2 ck, r')
  | 14 => thenRead (readMessage bs) fun m r => .ok (.txSend m.1 m.2, r)
  | 15 => thenRead (readWord16 bs) fun id r => .ok (.txSendEmpty id, r)
  | _ => .error .reservedCode

/-- The byte action of the state with this code. Codes 9 to 15 are reserved and "must" be treated "as `AwaitSync0`"
(30_encoding.md R107, R108 item 1; log 22). -/
def decodeAction (p : Params) (code : Nat) (bs : List Byte) : Parsed Instr :=
  match code with
  | 1 => thenRead (readByte bs) fun b r => .ok (.actAwaitSync1 b, r)
  | 2 => thenRead (readByte bs) fun b r => .ok (.actIdentifierLow b, r)
  | 3 => thenRead (readByte bs) fun b r => .ok (.actIdentifierHigh b, r)
  | 4 => thenRead (readByte bs) fun b r => .ok (.actLengthLow b, r)
  | 5 => thenRead (readByte bs) fun b r => .ok (.actLengthHigh b, r)
  | 6 => thenRead (readByte bs) fun b r => .ok (.actPayload b, r)
  | 7 => thenRead (readByte bs) fun b r => .ok (.actChecksumLow b, r)
  | 8 => thenRead (readByte bs) fun b r => .ok (.actChecksumHigh b, r)
  | _ => thenRead (readTick p bs) fun tick r => thenRead (readByte r) fun b r' => .ok (.actAwaitSync0 tick b, r')

/-- A frame as R100 lays it out. -/
def decodeFrame (p : Params) (bs : List Byte) : Parsed Instr :=
  thenRead (readByte bs) fun s0 r0 => thenRead (readByte r0) fun s1 r1 =>
    if s0 = p.sync0 ∧ s1 = p.sync1 then
      thenRead (readMessage r1) fun m r2 => thenRead (readWord16 r2) fun ck r3 => .ok (.frame m.1 m.2 ck, r3)
    else .error .notSync

/-- The operation that a byte string begins with, and the bytes after it. -/
def decode (p : Params) : List Byte → Parsed Instr
  | [] => .error .empty
  | op :: bs =>
    match op.toNat / 16 with
    | 0 => decodeOp p (op.toNat % 16) bs
    | 1 => decodeAction p (op.toNat % 16) bs
    | 2 => if op.toNat % 16 = 0 then decodeFrame p bs else .error .reservedCode
    | _ => .error .reservedCode

/-- The one operation that a whole byte string encodes. -/
def decodeWhole (p : Params) (bs : List Byte) : Except DecodeError Instr :=
  match decode p bs with
  | .error e => .error e
  | .ok (i, []) => .ok i
  | .ok (_, _ :: _) => .error .trailingBytes

/-- A 16-bit operand, low byte first. -/
def encodeWord16 (v : Word16) : List Byte := [lowByte v, highByte v]

/-- A tick operand. -/
def encodeTick (p : Params) (tick : Nat) : List Byte := leBytes (tickBytes p) tick

/-- A payload behind its length. -/
def encodePayload (payload : List Byte) : List Byte := encodeWord16 (lenField payload) ++ payload

/-- The selector byte of `MSG_READ`. -/
def encodeSel : MsgSel → Byte
  | .id => 0
  | .len => 1
  | .ck => 2
  | .payload => 3

/-- The bytes of an operation, from the same tables (30_encoding.md R100, R107, R109; log 1). -/
def encode (p : Params) : Instr → List Byte
  | .reset => [0x00]
  | .qPush x => [0x01, x]
  | .qPop => [0x02]
  | .statusRead => [0x03]
  | .statusClear mask => [0x04, mask.setWidth 8]
  | .decStep tick => 0x05 :: encodeTick p tick
  | .decReset => [0x06]
  | .msgRead sel i => 0x07 :: encodeSel sel :: encodeWord16 i
  | .ckInit => [0x08]
  | .ckUpdate x => [0x09, x]
  | .ckResult => [0x0A]
  | .ckMsg id payload => 0x0B :: (encodeWord16 id ++ encodePayload payload)
  | .ckVerify => [0x0C]
  | .encFrame id payload ck => 0x0D :: (encodeWord16 id ++ encodePayload payload ++ encodeWord16 ck)
  | .txSend id payload => 0x0E :: (encodeWord16 id ++ encodePayload payload)
  | .txSendEmpty id => 0x0F :: encodeWord16 id
  | .actAwaitSync0 tick b => 0x10 :: (encodeTick p tick ++ [b])
  | .actAwaitSync1 b => [0x11, b]
  | .actIdentifierLow b => [0x12, b]
  | .actIdentifierHigh b => [0x13, b]
  | .actLengthLow b => [0x14, b]
  | .actLengthHigh b => [0x15, b]
  | .actPayload b => [0x16, b]
  | .actChecksumLow b => [0x17, b]
  | .actChecksumHigh b => [0x18, b]
  | .frame id payload ck => 0x20 :: frameBytes p.sync0 p.sync1 id payload ck

/-- The code of an operation whose bits are `w`, with zero bytes behind it for its operands: at least as many as the
longest operation takes when its operand bytes are zero. A row of one byte is an `OP` or `DSTATE` row and `w` is its code
byte; the bytes of the longer row are the frame itself (30_encoding.md R112), behind the `WIRE` format's code byte (log 2). -/
def tableBytes (p : Params) (nbits w : Nat) : List Byte :=
  let bytes := leBytes ((nbits + 7) / 8 + tickBytes p + 16) (w % 2 ^ nbits)
  if nbits ≤ 8 then bytes else 0x20 :: bytes

/-- The operation the decoder reads from an instruction whose bits are `w`, numbered as spec/opcode_table.json numbers
them. An `OP` row and a `DSTATE` row with one code have the same four bits in that table; this reading takes them as the
`OP` row's (log 2). The tick width is that of the illustrative instance. -/
def decodeTableWord (nbits w : Nat) : Option Instr :=
  match decode Config.illustrative (tableBytes Config.illustrative nbits w) with
  | .ok (i, _) => some i
  | .error _ => none

end Sys2Proof
end

