-- ==== Sys2Proof/Machine/State.lean ====
section
/-! DEFINITION. The state of the machine as plain data, its reset value, and the ways a step can stop. -/

namespace Sys2Proof.Machine

/-- `DecoderState` (10_state.md R37, 30_encoding.md R107). The reserved codes 9 to 15 are unrepresentable, as R108 item
1 asks. -/
inductive DState where
  | awaitSync0
  | awaitSync1
  | identifierLow
  | identifierHigh
  | lengthLow
  | lengthHigh
  | payload
  | checksumLow
  | checksumHigh
  deriving DecidableEq, Repr

/-- The six events, in the order of their numbers 1 to 6 (60_exceptions.md R250). -/
inductive Event where
  | resync
  | ckMismatch
  | unimplemented
  | qOverflow
  | lenReject
  | txReject
  deriving DecidableEq, Repr

/-- What the consumer's last operation returned (30_encoding.md R109, "result"; 10_state.md R46). -/
inductive Result where
  /-- An operation with no result has ended. -/
  | done
  /-- The call has not returned: C is inside `ENC_FRAME` (43_frame_encoder.md R211). -/
  | pending
  /-- `ok` of a send. -/
  | ok
  /-- `rejected` of a send or of `CK_MSG`. -/
  | rejected
  /-- `MSG_READ` of a payload index that does not exist (20_memory.md R71). -/
  | refused
  /-- `Q_POP`: `none` or `some(b)`. -/
  | popped (r : Option Byte)
  /-- `STATUS_READ`. -/
  | status (v : BitVec 2)
  /-- `DEC_STEP`: the flags `consumed` and `complete`. -/
  | stepped (consumed complete : Bool)
  /-- A 16-bit result: a message register or a checksum. -/
  | word (v : Word16)
  /-- A payload byte. -/
  | byte (v : Byte)
  /-- `CK_VERIFY`: 1 is a match. -/
  | verified (isMatch : Bool)
  deriving DecidableEq, Repr

/-- A message (00_scope.md R20). -/
structure Message where
  id      : Word16
  len     : Word16
  payload : List Byte
  ck      : Word16
  deriving DecidableEq, Repr

/-- The two indicators (60_exceptions.md R264). -/
inductive Indicator where
  | error
  | status
  deriving DecidableEq, Repr

/-- A pulse: which indicator, for how many time units (44_poll_dispatcher.md R232). -/
structure Pulse where
  which    : Indicator
  duration : Nat
  deriving DecidableEq, Repr

/-- Where C stands inside one call of `poll` (44_poll_dispatcher.md R231). -/
inductive PollPhase where
  /-- Between polls. -/
  | idle
  /-- `DEC_STEP` returned `complete = 1`; `CK_VERIFY` comes next. -/
  | verify
  /-- The checksum matched; `MSG_READ` and the call of `evaluate` come next. -/
  | dispatch
  /-- Inside `evaluate`. -/
  | evaluating
  deriving DecidableEq, Repr

/-- One thing the command evaluator does: a reply, or its answer (60_exceptions.md R265). -/
inductive EvalAction where
  | send (id : Word16) (payload : List Byte)
  | sendEmpty (id : Word16)
  | handled
  | unimplemented
  deriving DecidableEq, Repr

/-- One thing agent C sets out to do: an operation, given by its code, or a call of `poll(tick)`. -/
inductive Request where
  | op (code : List Byte)
  | poll (tick : Nat)
  deriving DecidableEq, Repr

/-- Which transition comes next in the one sequence of transitions of 20_memory.md R75. -/
inductive Turn where
  /-- An agent other than C performs the operation with this code: `RESET`, `Q_PUSH`, the arrival of a frame. -/
  | outside (code : List Byte)
  /-- A byte that belongs to no frame of the model reaches the transport (00_scope.md R18: T "delivers received bytes"). -/
  | arrive (b : Byte)
  /-- The receive interrupt runs for the oldest byte the transport holds (60_exceptions.md R258). -/
  | interrupt
  /-- C makes its next transition. -/
  | consumer
  /-- The transport accepts the byte that C is writing (60_exceptions.md R263). -/
  | accept
  /-- One time unit of the pulse that C is inside passes (44_poll_dispatcher.md R232; log 24). -/
  | timeUnit
  deriving DecidableEq, Repr

/-- A byte memory: the bytes written since reset, by rising address. An address that is not listed has no stored byte;
reading it gives a free value (log 6). -/
abbrev Mem := List Host.Cell

/-- Everything the spec gives the machine. INVENTORY.md, "State", lists each field with its rule. -/
structure State where
  /-- The implementation parameters (00_scope.md R12); no operation writes them. -/
  params : Params
  /-- `CFG.TRANSPORT` (10_state.md R44). -/
  cfgTransport : Transport
  /-- `RX_ID` (R31). -/
  rxId : Word16
  /-- `RX_LEN` (R32). -/
  rxLen : Word16
  /-- `RX_CK` (R33). -/
  rxCk : Word16
  /-- The received message is inside its validity window (R34). -/
  rxValid : Bool
  /-- `CK_A` (R35). -/
  ckA : Byte
  /-- `CK_B` (R35). -/
  ckB : Byte
  /-- `DSTATE` (R37). -/
  dstate : DState
  /-- `REMAINING` (R38). -/
  remaining : Word16
  /-- `T_MARK`, `TICK_W` bits (R39). -/
  tMark : Nat
  /-- `Q_IN` (R40). -/
  qIn : Nat
  /-- `Q_OUT` (R41). -/
  qOut : Nat
  /-- `Q_COUNT` (R42). -/
  qCount : Nat
  /-- `STATUS`: bit 0 `Q_OVF`, bit 1 `LEN_REJ` (R43). -/
  status : BitVec 2
  /-- `ENC_BUSY` (R45). -/
  encBusy : Bool
  /-- `ENC_POS` (R45). -/
  encPos : BitVec 17
  /-- `TX_ID` (R45). -/
  txId : Word16
  /-- `TX_LEN` (R45). -/
  txLen : Word16
  /-- `TX_CK` (R45). -/
  txCk : Word16
  /-- `PL` (R47, 20_memory.md R71). -/
  pl : Mem
  /-- `QB` (R47, 20_memory.md R73). -/
  qb : Mem
  /-- `TXM`, the payload of the frame being sent (R47, 20_memory.md R72). -/
  txm : Mem
  /-- The result port of agent C (00_scope.md R19). The model's own (log 10). -/
  result : Result
  /-- The events raised so far, oldest first (00_scope.md R16). The model's own (log 10). -/
  events : List Event
  /-- The bytes handed to `WriteByte` so far, oldest first (60_exceptions.md R263). The model's own (log 10). -/
  sent : List Byte
  /-- The pulses so far, oldest first (60_exceptions.md R264). The model's own (log 10). -/
  pulses : List Pulse
  /-- The messages handed to `evaluate` so far, oldest first (60_exceptions.md R265). The model's own (log 10). -/
  handed : List Message
  /-- The bytes the transport has received and not yet given to the block, oldest first (10_state.md R48). Input (log 16). -/
  line : List Byte
  /-- Where C stands in its program (44_poll_dispatcher.md R231). The model's own (log 19). -/
  pollPhase : PollPhase
  /-- The time units left of the indicator pulse that C is inside, 0 outside one (70_reset_and_hazards.md R294). The
  model's own (log 24). -/
  pulseLeft : Nat
  /-- What the command evaluator will do, in order. Input (log 19). -/
  evaluator : List EvalAction
  /-- What C will do, in order. Input (log 3). -/
  requests : List Request
  /-- Which transitions come next, in order. Input (log 3). -/
  turns : List Turn
  /-- The number of the last `RESET`, for the free values of reset. The model's own (log 6). -/
  epoch : Nat
  /-- How many unspecified reads there have been, for their free values. The model's own (log 7). -/
  draws : Nat
  deriving DecidableEq, Repr

/-- Why the machine stops with a fault. No rule of the spec produces any of these (20_memory.md R77): each needs a state
that breaks an invariant of 10_state.md R50, and stopping there is safe (log 18). -/
inductive Fault where
  /-- An access to an address outside the memory `space`. Raised by `Q_PUSH`, `Q_POP`, `DEC_STEP`, the `Payload` action,
  `CK_VERIFY` and the byte transition of `ENC_FRAME`. Safe. -/
  | noSuchAddress (space : Space)
  /-- The `Payload` action with `REMAINING` already 0. Safe. -/
  | remainingUnderflow
  /-- A byte transition with `ENC_POS` at or past the end of the frame. Safe. -/
  | positionPastFrame
  deriving DecidableEq, Repr

/-- Why a transition is given no meaning. -/
inductive Refusal where
  /-- An operation that has no meaning in this model yet. Raised by `exec`. Safe. -/
  | notModelled (mnemonic : String)
  /-- A code that encodes no operation. Raised by the fetch. Safe (log 1). -/
  | badEncoding (e : DecodeError)
  /-- A byte action whose state's code `DSTATE` does not hold, so that nothing selects it (30_encoding.md R107). Raised by
  the fetch. Safe (log 14). -/
  | byteActionNotSelected
  /-- An operation at a port of another agent; the spec says nothing of such executions (60_exceptions.md R266). Raised by
  the fetch. Safe (log 17). -/
  | wrongAgent
  /-- `Q_PUSH` under `UsbDirect`, where its agent P does not exist (00_scope.md R18, 10_state.md R44). Raised by the fetch.
  Safe (log 17). -/
  | noProducer
  deriving DecidableEq, Repr

/-- The state after reset of the instance `p` (10_state.md R49). The registers that R49 leaves unspecified are 0: DESIGN
CHOICE, unsafe (log 5). The bytes of `PL` and `QB` are free values (log 6). -/
def State.resetOf (p : Params) : State where
  params := p
  cfgTransport := p.transport
  rxId := 0
  rxLen := 0
  rxCk := 0
  rxValid := false
  ckA := 0
  ckB := 0
  dstate := .awaitSync0
  remaining := 0
  tMark := 0
  qIn := 0
  qOut := 0
  qCount := 0
  status := 0
  encBusy := false
  encPos := 0
  txId := 0
  txLen := 0
  txCk := 0
  pl := []
  qb := []
  txm := []
  result := .done
  events := []
  sent := []
  pulses := []
  handed := []
  line := []
  pollPhase := .idle
  pulseLeft := 0
  evaluator := []
  requests := []
  turns := []
  epoch := 0
  draws := 0

/-- The machine right after reset, with the spec's illustrative parameters: DESIGN CHOICE, unsafe (log 4). -/
def State.reset : State := State.resetOf Config.illustrative

end Sys2Proof.Machine
end

