-- ==== Sys2Proof/Machine/Flags.lean ====
section
/-! DEFINITION. Every flag of 10_state.md R46: the sticky bits of `STATUS`, and the one-bit results. -/

namespace Sys2Proof.Machine

/-- `STATUS.Q_OVF`, bit 0 (10_state.md R43). -/
def State.qOvf (s : State) : Bool := s.status.getLsbD 0

/-- `STATUS.LEN_REJ`, bit 1 (10_state.md R43). -/
def State.lenRej (s : State) : Bool := s.status.getLsbD 1

/-- `STATUS.Q_OVF <- 1` (40_receive_queue.md R132). -/
def setQOvf (status : BitVec 2) : BitVec 2 := status ||| 0b01

/-- `STATUS.LEN_REJ <- 1` (41_frame_decoder.md R159). -/
def setLenRej (status : BitVec 2) : BitVec 2 := status ||| 0b10

/-- Each bit whose mask bit is 1 becomes 0 (40_receive_queue.md R135). -/
def clearStatus (mask status : BitVec 2) : BitVec 2 := status &&& ~~~mask

/-- `consumed` of the last `DEC_STEP`; false after any other operation. -/
def Result.consumed : Result → Bool
  | .stepped consumed _ => consumed
  | _ => false

/-- `complete` of the last `DEC_STEP`; false after any other operation. -/
def Result.complete : Result → Bool
  | .stepped _ complete => complete
  | _ => false

/-- The verify result of `CK_VERIFY`: all 16 bits are compared (42_checksum_engine.md R196). -/
def checksumMatches (computed carried : Word16) : Bool := computed == carried

end Sys2Proof.Machine
end

