-- ==== Sys2Proof/Machine/Ops.lean ====
section
/-! DEFINITION. The shared operations over memories and registers (00_scope.md R15, R16): one byte at a time, the
registers at reset, the result port, and raising an event. -/

namespace Sys2Proof.Machine

/-! Memories. -/

/-- The byte stored at an address, if one is. -/
def Mem.get? : Mem → Nat → Option Byte
  | [], _ => none
  | (a, v) :: m, k => if a = k then some v else Mem.get? m k

/-- Store one byte, keeping the addresses in rising order. -/
def Mem.set : Mem → Nat → Byte → Mem
  | [], k, v => [(k, v)]
  | (a, w) :: m, k, v =>
    if k < a then (k, v) :: (a, w) :: m
    else if k = a then (k, v) :: m
    else (a, w) :: Mem.set m k v

/-- The canonical form: addresses strictly rising. An unlisted address has no stored byte, so no entry can equal what an
unlisted one reads as. -/
abbrev Mem.wf (m : Mem) : Prop := m.Pairwise fun c d => c.1 < d.1

/-- Bytes laid out from address `k` up. -/
def Mem.ofBytesFrom : Nat → List Byte → Mem
  | _, [] => []
  | k, b :: bs => (k, b) :: Mem.ofBytesFrom (k + 1) bs

/-- Bytes laid out from address 0 up (20_memory.md R72). -/
def Mem.ofBytes (bs : List Byte) : Mem := Mem.ofBytesFrom 0 bs

/-- The memory behind a name. -/
def State.mem (s : State) : Space → Mem
  | .pl => s.pl
  | .qb => s.qb
  | .txm => s.txm

/-- How many bytes it has: addresses 0 to size - 1 exist (00_scope.md R15). -/
def State.size (s : State) : Space → Nat
  | .pl => s.params.payloadCap
  | .qb => s.params.queueCap
  | .txm => s.txm.length

/-- What a byte holds: what was last written, or since RESET nothing and then a free value (log 6). -/
def State.byteAt (s : State) (space : Space) (a : Nat) : Byte :=
  match Mem.get? (s.mem space) a with
  | some v => v
  | none => Config.memAtReset s.epoch space a

/-- `MemRead(space, a, 1)`; none where there is no such address. -/
def memRead (space : Space) (a : Nat) (s : State) : Option Byte :=
  if a < s.size space then some (s.byteAt space a) else none

/-- `MemWrite(PL, a, 1, v)`; none where there is no such address. -/
def writePl (a : Nat) (v : Byte) (s : State) : Option State :=
  if a < s.size .pl then some { s with pl := Mem.set s.pl a v } else none

/-- `MemWrite(QB, a, 1, v)`; none where there is no such address. No operation writes `TXM` (20_memory.md R72). -/
def writeQb (a : Nat) (v : Byte) (s : State) : Option State :=
  if a < s.size .qb then some { s with qb := Mem.set s.qb a v } else none

/-! The consumer's result port. -/

/-- `return v` to agent C (00_scope.md R16). -/
def State.answer (s : State) (r : Result) : State := { s with result := r }

/-- One unspecified read has been made: its free values are not drawn again (log 7). -/
def State.afterDraw (s : State) : State := { s with draws := s.draws + 1 }

/-! Events. -/

/-- The number of an event (60_exceptions.md R250); bookkeeping of the spec. -/
def Event.code : Event → Nat
  | .resync => 1
  | .ckMismatch => 2
  | .unimplemented => 3
  | .qOverflow => 4
  | .lenReject => 5
  | .txReject => 6

/-- `DSTATE` is past `AwaitSync1`: a byte of a message may be on its way into the registers. -/
def DState.pastSync : DState → Bool
  | .awaitSync0 => false
  | .awaitSync1 => false
  | .identifierLow => true
  | .identifierHigh => true
  | .lengthLow => true
  | .lengthHigh => true
  | .payload => true
  | .checksumLow => true
  | .checksumHigh => true

/-- `DSTATE <- AwaitSync0`, nothing else (60_exceptions.md R251). The validity window of the last completed message is not
touched: by the letter of 10_state.md R34 only a consumed byte ends it (log 8). -/
def abandonFrame (s : State) : State := { s with dstate := .awaitSync0 }

/-- `DEC_RESET` (41_frame_decoder.md R163): `DSTATE <- AwaitSync0`, and the received message leaves its validity window if
the decoder was past `AwaitSync1`. -/
def resetDecoder (s : State) : State :=
  { abandonFrame s with rxValid := s.rxValid && !s.dstate.pastSync }

/-- `raise E()`: record that the event occurred and perform its entry actions, which are its whole effect: nothing is
saved, no mode changes and control goes nowhere else (00_scope.md R16, 60_exceptions.md R251 to R256, R260). There is no
return operation: recovery is automatic (R261). -/
def raise (e : Event) (s : State) : State :=
  let recorded := { s with events := s.events ++ [e] }
  match e with
  | .resync => abandonFrame recorded
  | .ckMismatch => recorded
  | .unimplemented => recorded
  | .qOverflow => { recorded with status := setQOvf recorded.status }
  | .lenReject => abandonFrame { recorded with status := setLenRej recorded.status }
  | .txReject => recorded

/-! The queue's read port and the transport's. -/

/-- `Q_POP` (40_receive_queue.md R133): the oldest byte, if there is one. None where `Q_OUT` is no address of `QB`. -/
def queuePop (s : State) : Option (Option Byte × State) :=
  if s.qCount = 0 then some (none, s)
  else
    match memRead .qb s.qOut s with
    | none => none
    | some b => some (some b, { s with qOut := (s.qOut + 1) % s.params.queueCap, qCount := s.qCount - 1 })

/-- The USB transport's read: the oldest unread byte it has received, if it has one (60_exceptions.md R262; log 16). -/
def usbRead (s : State) : Option Byte × State :=
  match s.line with
  | [] => (none, s)
  | b :: rest => (some b, { s with line := rest })

/-- `TryReadByte()` (41_frame_decoder.md R152, 60_exceptions.md R262). -/
def tryReadByte (s : State) : Option (Option Byte × State) :=
  match s.cfgTransport with
  | .serialQueued => queuePop s
  | .usbDirect => some (usbRead s)

/-- `WriteByte(b)`, at the moment the transport takes the byte (60_exceptions.md R263). -/
def writeByte (b : Byte) (s : State) : State := { s with sent := s.sent ++ [b] }

end Sys2Proof.Machine
end

