-- ==== Sys2Proof/Machine/Operands.lean ====
section
/-! DEFINITION. The operands an operation reads that are not plain values: the received message as a reader sees it
(10_state.md R34), a message operand's payload and its bound, and the tick. -/

namespace Sys2Proof.Machine

/-- `RX_ID` as read: the register inside the validity window, any value outside it. -/
def State.readId (s : State) : Word16 := if s.rxValid then s.rxId else Config.staleId s.draws

/-- `RX_LEN` as read. -/
def State.readLen (s : State) : Word16 := if s.rxValid then s.rxLen else Config.staleLen s.draws

/-- `RX_CK` as read. -/
def State.readCk (s : State) : Word16 := if s.rxValid then s.rxCk else Config.staleCk s.draws

/-- The payload byte `i` is a byte of the received message: the window is open and `i < RX_LEN`. -/
def State.payloadKnown (s : State) (i : Nat) : Bool := s.rxValid && decide (i < s.rxLen.toNat)

/-- `PL[i]` as read (20_memory.md R71; 93_implementation_defined.md I11, I12). -/
def State.readPayload (s : State) (i : Nat) : Byte :=
  if s.payloadKnown i then s.byteAt .pl i else Config.staleByte s.draws i

/-- The received message as its readers see it (10_state.md R34). -/
def State.readMessage (s : State) : Message where
  id := s.readId
  len := s.readLen
  payload := (List.range s.readLen.toNat).map s.readPayload
  ck := s.readCk

/-- Draw afresh if the read was of something unspecified. -/
def State.afterRead (s : State) (known : Bool) : State := if known then s else s.afterDraw

/-- `len > PAYLOAD_CAP`: an illegal message operand (30_encoding.md R108 item 3). -/
def State.tooLong (s : State) (payload : List Byte) : Bool := decide (s.params.payloadCap < payload.length)

/-- A tick as the block holds it, `TICK_W` bits (10_state.md R39; log 21). -/
def State.tickReg (s : State) (tick : Nat) : Nat := tick % 2 ^ s.params.tickW

/-- `(tick - T_MARK) mod 2^TICK_W`, unsigned (41_frame_decoder.md R153 item 3). -/
def State.elapsed (s : State) (tick : Nat) : Nat :=
  (((tick : Int) - (s.tMark : Int)) % ((2 ^ s.params.tickW : Nat) : Int)).toNat

/-- The timeout condition of 41_frame_decoder.md R153 items 2 to 4: mid-frame, and strictly more than the threshold. -/
def State.timedOut (s : State) (tick : Nat) : Bool :=
  decide (s.dstate ≠ .awaitSync0) && decide (s.params.resyncTicks < s.elapsed tick)

end Sys2Proof.Machine
end

