-- ==== Sys2Proof/Machine/Checksum.lean ====
section
/-! DEFINITION. The Checksum Engine (42_checksum_engine.md). -/

namespace Sys2Proof.Machine

/-- `CK_A <- 0; CK_B <- 0` (R191). -/
def ckInit (s : State) : State := { s with ckA := 0, ckB := 0 }

/-- The update law: `CK_A` first, then `CK_B` with the new `CK_A`, both mod 256 (R192). -/
def ckUpdate (s : State) (x : Byte) : State := { s with ckA := s.ckA + x, ckB := s.ckB + (s.ckA + x) }

/-- `(CK_B << 8) | CK_A` (R193). -/
def ckResult (s : State) : Word16 := joinBytes s.ckA s.ckB

/-- `CK_INIT`, then `CK_UPDATE` of each byte in order (R195, R196). -/
def ckRun (bytes : List Byte) (s : State) : State := bytes.foldl ckUpdate (ckInit s)

/-- The accumulators `(a, b)` after these bytes, from `a = b = 0`. -/
def ckPair (bytes : List Byte) : Byte × Byte :=
  bytes.foldl (fun (a, b) x => (a + x, b + (a + x))) (0, 0)

/-- The pure function `CK(x_1, ..., x_n)` (R194). -/
def ck (bytes : List Byte) : Word16 := joinBytes (ckPair bytes).1 (ckPair bytes).2

/-- The checksum of a message (R194): over identifier, length and payload. -/
def messageCk (id : Word16) (payload : List Byte) : Word16 := ck (headerBytes id (lenField payload) ++ payload)

/-- `CK_MSG` on an operand that is not too long: the accumulators are left holding the result (R195). -/
def ckMessage (id : Word16) (payload : List Byte) (s : State) : State :=
  ckRun (headerBytes id (lenField payload) ++ payload) s

/-- A message operand with `len > PAYLOAD_CAP`: `EV_TX_REJECT`, no entry action, the result `rejected` (60_exceptions.md
R256; log 11). -/
def rejectMessage (s : State) : State := (raise .txReject s).answer .rejected

/-- `CK_INIT` (R191). -/
def execCkInit (s : State) : Host.Outcome State Fault Refusal := .next ((ckInit s).answer .done)

/-- `CK_UPDATE(x)` (R192). -/
def execCkUpdate (x : Byte) (s : State) : Host.Outcome State Fault Refusal := .next ((ckUpdate s x).answer .done)

/-- `CK_RESULT` (R193). -/
def execCkResult (s : State) : Host.Outcome State Fault Refusal := .next (s.answer (.word (ckResult s)))

/-- `CK_MSG(id, len, payload)` (R195). -/
def execCkMsg (id : Word16) (payload : List Byte) (s : State) : Host.Outcome State Fault Refusal :=
  if s.tooLong payload then .next (rejectMessage s)
  else
    let t := ckMessage id payload s
    .next (t.answer (.word (ckResult t)))

/-- `CK_VERIFY` (R196), on the received message as a reader sees it: outside the validity window every part of it is a
free value, and so is what is computed from it (log 7). Inside, `RX_LEN <= PAYLOAD_CAP` and every `PL` address exists. -/
def execCkVerify (s : State) : Host.Outcome State Fault Refusal :=
  if s.rxValid && decide (s.params.payloadCap < s.rxLen.toNat) then .fault (.noSuchAddress .pl)
  else
    let m := s.readMessage
    let t := ckRun (headerBytes m.id m.len ++ m.payload) s
    .next ((t.afterRead s.rxValid).answer (.verified (checksumMatches (ckResult t) m.ck)))

end Sys2Proof.Machine
end

