-- ==== Sys2Proof/Machine/Control.lean ====
section
/-! DEFINITION. `RESET` (10_state.md R49, 70_reset_and_hazards.md R280) and the arrival of bytes from the line
(00_scope.md R18). -/

namespace Sys2Proof.Machine

/-- `RESET`: every register of R49's table, the unspecified ones as free values drawn by this reset; `PL` and `QB` become
unspecified; a running send is abandoned and what was sent stays sent; C is back at the start of its loop (log 6, log 20). -/
def execReset (s : State) : Host.Outcome State Fault Refusal :=
  let e := s.epoch + 1
  .next { s with
    cfgTransport := s.params.transport
    rxId := Config.rxIdAtReset e
    rxLen := Config.rxLenAtReset e
    rxCk := Config.rxCkAtReset e
    rxValid := false
    ckA := 0
    ckB := 0
    dstate := .awaitSync0
    remaining := Config.remainingAtReset e
    tMark := s.tickReg (Config.tMarkAtReset e)
    qIn := 0
    qOut := 0
    qCount := 0
    status := 0
    encBusy := false
    encPos := Config.encPosAtReset e
    txId := Config.txIdAtReset e
    txLen := Config.txLenAtReset e
    txCk := Config.txCkAtReset e
    pl := []
    qb := []
    result := .done
    pollPhase := .idle
    pulseLeft := 0
    epoch := e }

/-- Bytes reach the transport: they wait for the receive interrupt, or to be read (00_scope.md R18, 10_state.md R48). -/
def deliver (bytes : List Byte) (s : State) : State := { s with line := s.line ++ bytes }

/-- `FRAME` (30_encoding.md R100): the `8 + len` bytes of one frame arrive on the line, in order (log 15). -/
def execFrame (id : Word16) (payload : List Byte) (ck : Word16) (s : State) : Host.Outcome State Fault Refusal :=
  .next (deliver (frameBytes s.params.sync0 s.params.sync1 id payload ck) s)

end Sys2Proof.Machine
end

