-- ==== Sys2Proof/Machine/Decoder.lean ====
section
/-! DEFINITION. The Frame Decoder (41_frame_decoder.md): the nine byte actions, `DEC_STEP`, `DEC_RESET`, `MSG_READ`.

A byte action is the body of its arm of R151's `case` followed by that rule's `return (consumed = 1, complete)`; as there,
the body does not look at `DSTATE`, which has selected it. From `IdentifierLow` on, consuming a byte ends the validity
window of the last received message (10_state.md R34). -/

namespace Sys2Proof.Machine

/-- `return (consumed = 1, complete)` (R151). -/
def State.stepped (s : State) (complete : Bool) : State := s.answer (.stepped true complete)

/-- `AwaitSync0` (R154). -/
def execActAwaitSync0 (tick : Nat) (b : Byte) (s : State) : Host.Outcome State Fault Refusal :=
  if b = s.params.sync0 then
    .next ({ s with tMark := s.tickReg tick, dstate := .awaitSync1 }.stepped false)
  else .next (s.stepped false)

/-- `AwaitSync1` (R155): the failing byte is not looked at again. -/
def execActAwaitSync1 (b : Byte) (s : State) : Host.Outcome State Fault Refusal :=
  if b = s.params.sync1 then .next ({ s with dstate := .identifierLow }.stepped false)
  else .next ({ s with dstate := .awaitSync0 }.stepped false)

/-- `IdentifierLow` (R156). -/
def execActIdentifierLow (b : Byte) (s : State) : Host.Outcome State Fault Refusal :=
  .next ({ s with rxId := withLowByte s.rxId b, rxValid := false, dstate := .identifierHigh }.stepped false)

/-- `IdentifierHigh` (R157). -/
def execActIdentifierHigh (b : Byte) (s : State) : Host.Outcome State Fault Refusal :=
  .next ({ s with rxId := withHighByte s.rxId b, rxValid := false, dstate := .lengthLow }.stepped false)

/-- `LengthLow` (R158). -/
def execActLengthLow (b : Byte) (s : State) : Host.Outcome State Fault Refusal :=
  .next ({ s with rxLen := withLowByte s.rxLen b, rxValid := false, dstate := .lengthHigh }.stepped false)

/-- `LengthHigh` (R159). -/
def execActLengthHigh (b : Byte) (s : State) : Host.Outcome State Fault Refusal :=
  let len := withHighByte s.rxLen b
  let t := { s with rxLen := len, remaining := len, rxValid := false }
  if len = 0 then .next ({ t with dstate := .checksumLow }.stepped false)
  else if s.params.payloadCap < len.toNat then .next ((raise .lenReject t).stepped false)
  else .next ({ t with dstate := .payload }.stepped false)

/-- `Payload` (R160). `RX_LEN - REMAINING` is an address of `PL` and `REMAINING` is at least 1 by 10_state.md R50 item 3;
elsewhere the rule gives no effect and the model faults (log 18). -/
def execActPayload (b : Byte) (s : State) : Host.Outcome State Fault Refusal :=
  if s.remaining = 0 then .fault .remainingUnderflow
  else if s.rxLen.toNat < s.remaining.toNat then .fault (.noSuchAddress .pl)
  else
    match writePl (s.rxLen.toNat - s.remaining.toNat) b s with
    | none => .fault (.noSuchAddress .pl)
    | some t =>
      .next ({ t with
        remaining := s.remaining - 1
        rxValid := false
        dstate := if s.remaining - 1 = 0 then .checksumLow else s.dstate }.stepped false)

/-- `ChecksumLow` (R161). -/
def execActChecksumLow (b : Byte) (s : State) : Host.Outcome State Fault Refusal :=
  .next ({ s with rxCk := withLowByte s.rxCk b, rxValid := false, dstate := .checksumHigh }.stepped false)

/-- `ChecksumHigh` (R162): the frame is complete and the received message enters its validity window (10_state.md R34). -/
def execActChecksumHigh (b : Byte) (s : State) : Host.Outcome State Fault Refusal :=
  .next ({ s with rxCk := withHighByte s.rxCk b, rxValid := true, dstate := .awaitSync0 }.stepped true)

/-- Part 3 of `DEC_STEP`: `DSTATE` selects the action on the consumed byte (R151, 30_encoding.md R107). -/
def byteAction (tick : Nat) (b : Byte) (s : State) : Host.Outcome State Fault Refusal :=
  match s.dstate with
  | .awaitSync0 => execActAwaitSync0 tick b s
  | .awaitSync1 => execActAwaitSync1 b s
  | .identifierLow => execActIdentifierLow b s
  | .identifierHigh => execActIdentifierHigh b s
  | .lengthLow => execActLengthLow b s
  | .lengthHigh => execActLengthHigh b s
  | .payload => execActPayload b s
  | .checksumLow => execActChecksumLow b s
  | .checksumHigh => execActChecksumHigh b s

/-- Part 1 of `DEC_STEP`: the resync timeout check (R153). -/
def resyncCheck (tick : Nat) (s : State) : State := if s.timedOut tick then raise .resync s else s

/-- `DEC_STEP(tick)` (R151): the timeout check, then at most one byte, then the action on it. -/
def execDecStep (tick : Nat) (s : State) : Host.Outcome State Fault Refusal :=
  match tryReadByte (resyncCheck tick s) with
  | none => .fault (.noSuchAddress .qb)
  | some (none, t) => .next (t.answer (.stepped false false))
  | some (some b, t) => byteAction tick b t

/-- `DEC_RESET` (R163). -/
def execDecReset (s : State) : Host.Outcome State Fault Refusal :=
  .next ((resetDecoder s).answer .done)

/-- `MSG_READ(sel, i)` (R164). An index at or past `PAYLOAD_CAP` is refused: the result says so and nothing else happens
(93_implementation_defined.md I13; log 9). -/
def execMsgRead (sel : MsgSel) (i : Word16) (s : State) : Host.Outcome State Fault Refusal :=
  match sel with
  | .id => .next ((s.afterRead s.rxValid).answer (.word s.readId))
  | .len => .next ((s.afterRead s.rxValid).answer (.word s.readLen))
  | .ck => .next ((s.afterRead s.rxValid).answer (.word s.readCk))
  | .payload =>
    if s.params.payloadCap ≤ i.toNat then .next (s.answer .refused)
    else .next ((s.afterRead (s.payloadKnown i.toNat)).answer (.byte (s.readPayload i.toNat)))

end Sys2Proof.Machine
end

