-- ==== Sys2Proof/Machine/Encoder.lean ====
section
/-! DEFINITION. The Frame Encoder (43_frame_encoder.md). A send is a start transition and `8 + len` byte transitions, and
between two of them only the other agents act (R212). -/

namespace Sys2Proof.Machine

/-- The start transition (R211). The operand's payload becomes `TXM`, the memory the byte transitions read (20_memory.md
R72; log 13). -/
def startFrame (id : Word16) (payload : List Byte) (ck : Word16) (s : State) : State :=
  { s with
    txId := id
    txLen := lenField payload
    txCk := ck
    txm := Mem.ofBytes payload
    encPos := 0
    encBusy := true
    result := .pending }

/-- `EncByte(p)` (R213); none past the end of the frame, or where `TXM` has no such byte. -/
def encByte (p : Nat) (s : State) : Option Byte :=
  if p = 0 then some s.params.sync0
  else if p = 1 then some s.params.sync1
  else if p = 2 then some (lowByte s.txId)
  else if p = 3 then some (highByte s.txId)
  else if p = 4 then some (lowByte s.txLen)
  else if p = 5 then some (highByte s.txLen)
  else if p < 6 + s.txLen.toNat then memRead .txm (p - 6) s
  else if p = 6 + s.txLen.toNat then some (lowByte s.txCk)
  else if p = 7 + s.txLen.toNat then some (highByte s.txCk)
  else none

/-- The byte transition (R212), at the moment the transport accepts the byte. -/
def encByteTransition (s : State) : Host.Outcome State Fault Refusal :=
  match encByte s.encPos.toNat s with
  | none => .fault (if s.encPos.toNat < 8 + s.txLen.toNat then .noSuchAddress .txm else .positionPastFrame)
  | some b =>
    let t := { writeByte b s with encPos := s.encPos + 1 }
    if t.encPos.toNat = t.txLen.toNat + 8 then .next ({ t with encBusy := false }.answer .ok) else .next t

/-- `TX_SEND` on a message (R214): `CK_MSG`, then `ENC_FRAME` with that checksum. The two first transitions are one here,
which no other agent can tell (log 12). -/
def sendMessage (id : Word16) (payload : List Byte) (s : State) : State :=
  if s.tooLong payload then rejectMessage s
  else
    let t := ckMessage id payload s
    startFrame id payload (ckResult t) t

/-- `ENC_FRAME(id, len, payload, ck)` (R211): `ck` is written as given. -/
def execEncFrame (id : Word16) (payload : List Byte) (ck : Word16) (s : State) : Host.Outcome State Fault Refusal :=
  if s.tooLong payload then .next (rejectMessage s) else .next (startFrame id payload ck s)

/-- `TX_SEND(id, len, payload)` (R214). -/
def execTxSend (id : Word16) (payload : List Byte) (s : State) : Host.Outcome State Fault Refusal :=
  .next (sendMessage id payload s)

/-- `TX_SEND_EMPTY(id)` (R215): `TX_SEND(id, 0, [])`. -/
def execTxSendEmpty (id : Word16) (s : State) : Host.Outcome State Fault Refusal :=
  .next (sendMessage id [] s)

end Sys2Proof.Machine
end

