-- ==== Sys2Proof/Machine/Queue.lean ====
section
/-! DEFINITION. The Receive Queue and the status register (40_receive_queue.md). -/

namespace Sys2Proof.Machine

/-- `Q_PUSH(x)` (R131, R132). With `Q_COUNT = N` the byte is dropped (drop newest); a count above `N`, which no run
reaches, is treated as full (log 18). P has no result port: `result` is C's. -/
def execQPush (x : Byte) (s : State) : Host.Outcome State Fault Refusal :=
  if s.qCount < s.params.queueCap then
    match writeQb s.qIn x s with
    | none => .fault (.noSuchAddress .qb)
    | some t => .next { t with qIn := (s.qIn + 1) % s.params.queueCap, qCount := s.qCount + 1 }
  else .next (raise .qOverflow s)

/-- `Q_POP` (R133). -/
def execQPop (s : State) : Host.Outcome State Fault Refusal :=
  match queuePop s with
  | none => .fault (.noSuchAddress .qb)
  | some (r, t) => .next (t.answer (.popped r))

/-- `STATUS_READ` (R134): reading does not clear. -/
def execStatusRead (s : State) : Host.Outcome State Fault Refusal :=
  .next (s.answer (.status s.status))

/-- `STATUS_CLEAR(mask)` (R135). -/
def execStatusClear (mask : BitVec 2) (s : State) : Host.Outcome State Fault Refusal :=
  .next ({ s with status := clearStatus mask s.status }.answer .done)

end Sys2Proof.Machine
end

