-- ==== Sys2Proof/Machine/Dispatch.lean ====
section
/-! DEFINITION. One arm per operation. -/

namespace Sys2Proof.Machine

def exec (i : Instr) (s : State) : Host.Outcome State Fault Refusal :=
  match i with
  | .reset => Sys2Proof.Machine.execReset s
  | .qPush x => Sys2Proof.Machine.execQPush x s
  | .qPop => Sys2Proof.Machine.execQPop s
  | .statusRead => Sys2Proof.Machine.execStatusRead s
  | .statusClear mask => Sys2Proof.Machine.execStatusClear mask s
  | .decStep tick => Sys2Proof.Machine.execDecStep tick s
  | .decReset => Sys2Proof.Machine.execDecReset s
  | .msgRead sel idx => Sys2Proof.Machine.execMsgRead sel idx s
  | .ckInit => Sys2Proof.Machine.execCkInit s
  | .ckUpdate x => Sys2Proof.Machine.execCkUpdate x s
  | .ckResult => Sys2Proof.Machine.execCkResult s
  | .ckMsg id payload => Sys2Proof.Machine.execCkMsg id payload s
  | .ckVerify => Sys2Proof.Machine.execCkVerify s
  | .encFrame id payload ck => Sys2Proof.Machine.execEncFrame id payload ck s
  | .txSend id payload => Sys2Proof.Machine.execTxSend id payload s
  | .txSendEmpty id => Sys2Proof.Machine.execTxSendEmpty id s
  | .actAwaitSync0 tick b => Sys2Proof.Machine.execActAwaitSync0 tick b s
  | .actAwaitSync1 b => Sys2Proof.Machine.execActAwaitSync1 b s
  | .actIdentifierLow b => Sys2Proof.Machine.execActIdentifierLow b s
  | .actIdentifierHigh b => Sys2Proof.Machine.execActIdentifierHigh b s
  | .actLengthLow b => Sys2Proof.Machine.execActLengthLow b s
  | .actLengthHigh b => Sys2Proof.Machine.execActLengthHigh b s
  | .actPayload b => Sys2Proof.Machine.execActPayload b s
  | .actChecksumLow b => Sys2Proof.Machine.execActChecksumLow b s
  | .actChecksumHigh b => Sys2Proof.Machine.execActChecksumHigh b s
  | .frame id payload ck => Sys2Proof.Machine.execFrame id payload ck s

end Sys2Proof.Machine
end

