-- ==== Sys2Proof/Machine/Poll.lean ====
section
/-! DEFINITION. The Poll Dispatcher, agent C's program (44_poll_dispatcher.md): one call of `poll(tick)` as its
transitions, between which P may act (log 19). It performs the block's own operations and keeps no state of its own but
its place in the call. -/

namespace Sys2Proof.Machine

/-- The activity pulse, in time units (00_scope.md R13, R232). -/
def activityPulse : Nat := 200

/-- The short error pulse (R232). -/
def shortErrorPulse : Nat := 10000

/-- The long error pulse (R232). -/
def longErrorPulse : Nat := 40000

/-- `Indicator.pulse(which, duration)` (60_exceptions.md R264). Where pulses block the poll loop, C is inside it for its
duration (70_reset_and_hazards.md R294; log 24). -/
def pulse (which : Indicator) (duration : Nat) (s : State) : State :=
  { s with
    pulses := s.pulses ++ [⟨which, duration⟩]
    pulseLeft := if s.params.pulseBlocks then duration else s.pulseLeft }

/-- One time unit passes: the pulse that C is inside, if it is inside one, is nearer its end. -/
def passTimeUnit (s : State) : State := { s with pulseLeft := s.pulseLeft - 1 }

/-- After the decode step: the activity pulse if a byte was consumed, and on to the checksum if a frame completed. -/
def pollAfterStep (s : State) : State :=
  let t := if s.result.consumed then pulse .status activityPulse s else s
  if s.result.complete then { t with pollPhase := .verify } else t

/-- The call's first transition: exactly one `DEC_STEP` (R231). -/
def pollStart (tick : Nat) (s : State) : Host.Outcome State Fault Refusal :=
  match execDecStep tick s with
  | .next t => .next (pollAfterStep t)
  | .fault f => .fault f
  | .refused r => .refused r

/-- After `CK_VERIFY`: dispatch on a match; on a mismatch `EV_CK_MISMATCH` and the short error pulse (60_exceptions.md
R252). -/
def pollAfterVerify (s : State) : State :=
  if s.result = .verified true then { s with pollPhase := .dispatch }
  else { pulse .error shortErrorPulse (raise .ckMismatch s) with pollPhase := .idle }

/-- `CK_VERIFY` on the completed frame. -/
def pollVerify (s : State) : Host.Outcome State Fault Refusal :=
  match execCkVerify s with
  | .next t => .next (pollAfterVerify t)
  | .fault f => .fault f
  | .refused r => .refused r

/-- `MSG_READ` of the whole message, handed to the command evaluator. -/
def pollDispatch (s : State) : State :=
  { s.afterRead s.rxValid with handed := s.handed ++ [s.readMessage], pollPhase := .evaluating }

/-- What the evaluator does next: a reply through `TX_SEND` or `TX_SEND_EMPTY`, or its answer (60_exceptions.md R253,
R265). With nothing given it has not returned yet. -/
def pollEvaluate (s : State) : State :=
  match s.evaluator with
  | [] => s
  | .send id payload :: rest => sendMessage id payload { s with evaluator := rest }
  | .sendEmpty id :: rest => sendMessage id [] { s with evaluator := rest }
  | .handled :: rest => { s with evaluator := rest, pollPhase := .idle }
  | .unimplemented :: rest =>
    { pulse .error longErrorPulse (raise .unimplemented { s with evaluator := rest }) with pollPhase := .idle }

end Sys2Proof.Machine
end

