-- ==== Sys2Proof/Machine/Fetch.lean ====
section
/-! DEFINITION. Which operation a transition performs, and whose turn it is (00_scope.md R17 to R19, 20_memory.md R75).

The block fetches nothing (10_state.md R36): its agents request operations. An execution is one sequence of transitions;
State holds the coming ones in `turns`, and agent C's coming operations, in C's own order, in `requests` (log 3). -/

namespace Sys2Proof.Machine

/-- The code in `DSTATE` that selects a byte action (30_encoding.md R107); none for the other operations. -/
def actionState : Instr → Option DState
  | .actAwaitSync0 _ _ => some .awaitSync0
  | .actAwaitSync1 _ => some .awaitSync1
  | .actIdentifierLow _ => some .identifierLow
  | .actIdentifierHigh _ => some .identifierHigh
  | .actLengthLow _ => some .lengthLow
  | .actLengthHigh _ => some .lengthHigh
  | .actPayload _ => some .payload
  | .actChecksumLow _ => some .checksumLow
  | .actChecksumHigh _ => some .checksumHigh
  | .reset => none
  | .qPush _ => none
  | .qPop => none
  | .statusRead => none
  | .statusClear _ => none
  | .decStep _ => none
  | .decReset => none
  | .msgRead _ _ => none
  | .ckInit => none
  | .ckUpdate _ => none
  | .ckResult => none
  | .ckMsg _ _ => none
  | .ckVerify => none
  | .encFrame _ _ _ => none
  | .txSend _ _ => none
  | .txSendEmpty _ => none
  | .frame _ _ _ => none

/-- `DSTATE` selects this operation, or nothing need select it. A byte action is performed only while `DSTATE` holds its
code: in `DEC_STEP` that is how it is chosen, and a byte action requested by its own code is held to the same (log 14). -/
def selected (i : Instr) (s : State) : Bool :=
  match actionState i with
  | none => true
  | some d => s.dstate == d

/-- The agent exists: P does only under `SerialQueued` (00_scope.md R18). -/
def agentExists (a : Agent) (s : State) : Bool :=
  match a with
  | .producer => s.cfgTransport == .serialQueued
  | .environment => true
  | .consumer => true
  | .transport => true

/-- Perform the operation that a code encodes, at a port of agent C or of the others (60_exceptions.md R266; log 17). -/
def runCode (byConsumer : Bool) (code : List Byte) (s : State) : Host.Outcome State Fault Refusal :=
  match decodeWhole s.params code with
  | .error e => .refused (.badEncoding e)
  | .ok i =>
    if (i.agent == .consumer) != byConsumer then .refused .wrongAgent
    else if !agentExists i.agent s then .refused .noProducer
    else if selected i s then exec i s
    else .refused .byteActionNotSelected

/-- C's next transition. Inside a send it has none but the byte transition, which waits for the transport (43_frame_encoder.md
R212, R216), and inside a blocking pulse none at all (70_reset_and_hazards.md R294); inside a poll it goes on with that;
else it starts on its next request, if it has one. Waiting, it leaves the state as it is, for as long as it waits (logs 23,
24). -/
def consumerTurn (s : State) : Host.Outcome State Fault Refusal :=
  if s.encBusy || s.pulseLeft != 0 then .next s
  else
    match s.pollPhase with
    | .verify => pollVerify s
    | .dispatch => .next (pollDispatch s)
    | .evaluating => .next (pollEvaluate s)
    | .idle =>
      match s.requests with
      | [] => .next s
      | .op code :: rest => runCode true code { s with requests := rest }
      | .poll tick :: rest => pollStart tick { s with requests := rest }

/-- The receive interrupt: `Q_PUSH` of the oldest byte the transport holds; under `UsbDirect` "no interrupt path"
(60_exceptions.md R258). -/
def interruptTurn (s : State) : Host.Outcome State Fault Refusal :=
  match s.cfgTransport with
  | .usbDirect => .next s
  | .serialQueued =>
    match s.line with
    | [] => .next s
    | b :: rest => exec (.qPush b) { s with line := rest }

/-- The transport is ready for a byte: C's byte transition if it is writing one (43_frame_encoder.md R212). -/
def acceptTurn (s : State) : Host.Outcome State Fault Refusal :=
  if s.encBusy then encByteTransition s else .next s

/-- One transition. -/
def performTurn (t : Turn) (s : State) : Host.Outcome State Fault Refusal :=
  match t with
  | .outside code => runCode false code s
  | .arrive b => .next (deliver [b] s)
  | .interrupt => interruptTurn s
  | .consumer => consumerTurn s
  | .accept => acceptTurn s
  | .timeUnit => .next (passTimeUnit s)

/-- One step of the execution sequence. With no turn given, nothing happens: the state changes only by transitions
(20_memory.md R75). -/
def stepTurn (s : State) : Host.Outcome State Fault Refusal :=
  match s.turns with
  | [] => .next s
  | t :: rest => performTurn t { s with turns := rest }

/-- Make this operation, with this code, the very next transition: a request and a turn of C, who is then free, for C's
operations, with the byte action's own code in `DSTATE`; a turn of another agent for the rest, with the transport under
which P exists for P's. -/
def placeOp (i : Instr) (code : List Byte) (s : State) : State :=
  if i.agent = .consumer then
    { s with
      turns := .consumer :: s.turns
      requests := .op code :: s.requests
      encBusy := false
      pollPhase := .idle
      pulseLeft := 0
      dstate := (actionState i).getD s.dstate }
  else
    { s with
      turns := .outside code :: s.turns
      cfgTransport := if i.agent = .producer then .serialQueued else s.cfgTransport }

/-- Place the operation whose bits are `w`, numbered as the opcode table numbers them, as the next transition. Bytes that
encode no operation are placed as they are, and the step refuses them by name. -/
def placeWord (s : State) (nbits w : Nat) : State :=
  let bytes := tableBytes s.params nbits w
  match decode s.params bytes with
  | .ok (i, rest) => placeOp i (bytes.take (bytes.length - rest.length)) s
  | .error _ => { s with turns := .outside bytes :: s.turns }

end Sys2Proof.Machine
end

