-- ==== Sys2Proof/Machine/Step.lean ====
section
/-! DEFINITION. One step of the machine, and placing the next operation. -/

namespace Sys2Proof.Machine

/-- The next transition of the execution sequence (20_memory.md R75). -/
def step (s : State) : Host.Outcome State Fault Refusal := stepTurn s

/-- `s` with the operation whose bits are `w` placed as its next transition (log 3). -/
def State.withFetchWord (s : State) (nbits w : Nat) : State := placeWord s nbits w

end Sys2Proof.Machine
end

