-- ==== Sys2Proof/Safety.lean ====
section
/-! DEFINITION. The invariants of 10_state.md R50 and the terms that claims are stated in: the queue as a list of bytes,
the byte actions as operations, a frame fed to the decoder, a send run to its end. -/

namespace Sys2Proof.Machine

/-- 10_state.md R50 item 1. -/
structure QueueInv (s : State) : Prop where
  count_le : s.qCount ≤ s.params.queueCap
  in_lt : s.qIn < s.params.queueCap
  out_lt : s.qOut < s.params.queueCap
  cursors : (s.qOut + s.qCount) % s.params.queueCap = s.qIn

/-- 10_state.md R50 items 3 and 5, and `T_MARK` within its width (R39). -/
structure DecoderInv (s : State) : Prop where
  payload : s.dstate = .payload →
    1 ≤ s.remaining.toNat ∧ s.remaining.toNat ≤ s.rxLen.toNat ∧ s.rxLen.toNat ≤ s.params.payloadCap
  checksum : s.dstate = .checksumLow ∨ s.dstate = .checksumHigh →
    s.remaining = 0 ∧ s.rxLen.toNat ≤ s.params.payloadCap
  mark_lt : s.tMark < 2 ^ s.params.tickW

/-- Inside the validity window (10_state.md R34) the message fits the payload buffer and the decoder has not yet begun to
overwrite it; while the dispatcher is inside a poll that saw a complete frame the window is open (70_reset_and_hazards.md
R291). -/
structure WindowInv (s : State) : Prop where
  len_le : s.rxValid = true → s.rxLen.toNat ≤ s.params.payloadCap
  early : s.rxValid = true → s.dstate = .awaitSync0 ∨ s.dstate = .awaitSync1 ∨ s.dstate = .identifierLow
  polling : s.pollPhase ≠ .idle → s.rxValid = true

/-- 10_state.md R50 item 6, with `TXM` holding the bytes at addresses 0 to `TX_LEN - 1` (20_memory.md R72). -/
structure EncoderInv (s : State) : Prop where
  len_le : s.encBusy = true → s.txLen.toNat ≤ s.params.payloadCap
  pos_lt : s.encBusy = true → s.encPos.toNat < s.txLen.toNat + 8
  txm_full : s.encBusy = true → s.txm.map Prod.fst = List.range s.txLen.toNat

/-- C is in one place: inside a pulse only where pulses block the loop, and never inside a send too (00_scope.md R18: it "is
sequential"; 70_reset_and_hazards.md R294; log 24). -/
structure PulseInv (s : State) : Prop where
  blocks : s.pulseLeft ≠ 0 → s.params.pulseBlocks = true
  alone : s.pulseLeft ≠ 0 → s.encBusy = false

/-- The memories keep their canonical form, and nothing is stored outside them (20_memory.md R70). -/
structure MemoryInv (s : State) : Prop where
  pl_wf : Mem.wf s.pl
  qb_wf : Mem.wf s.qb
  txm_wf : Mem.wf s.txm
  pl_in : ∀ c ∈ s.pl, c.1 < s.params.payloadCap
  qb_in : ∀ c ∈ s.qb, c.1 < s.params.queueCap

/-- What holds after reset and after every transition (10_state.md R50). Item 2, nine `DSTATE` codes, holds by the type. -/
structure StateInv (s : State) : Prop where
  legal : s.params.legal
  queue : QueueInv s
  decoder : DecoderInv s
  window : WindowInv s
  encoder : EncoderInv s
  memory : MemoryInv s
  pulse : PulseInv s

/-- The step neither faults nor refuses. -/
def Answers (o : Host.Outcome State Fault Refusal) : Prop := ∃ t, o = .next t

/-- The live bytes of the queue, oldest first (20_memory.md R73). -/
def queueBytes (s : State) : List Byte :=
  (List.range s.qCount).map fun k => s.byteAt .qb ((s.qOut + k) % s.params.queueCap)

/-- The bytes that `TryReadByte()` will return, oldest first (60_exceptions.md R262). -/
def pendingBytes (s : State) : List Byte :=
  match s.cfgTransport with
  | .serialQueued => queueBytes s
  | .usbDirect => s.line

/-- The byte action that a decoder state selects, as an operation (30_encoding.md R107). -/
def actionFor (d : DState) (tick : Nat) (b : Byte) : Instr :=
  match d with
  | .awaitSync0 => .actAwaitSync0 tick b
  | .awaitSync1 => .actAwaitSync1 b
  | .identifierLow => .actIdentifierLow b
  | .identifierHigh => .actIdentifierHigh b
  | .lengthLow => .actLengthLow b
  | .lengthHigh => .actLengthHigh b
  | .payload => .actPayload b
  | .checksumLow => .actChecksumLow b
  | .checksumHigh => .actChecksumHigh b

/-- Every byte of the memory `space` reads as before, but for the addresses in `stored`. -/
def SameBytesBut (space : Space) (stored : Nat → Prop) (s t : State) : Prop :=
  ∀ a, ¬ stored a → t.byteAt space a = s.byteAt space a

/-- Every byte of every memory reads as before. -/
def SameBytes (s t : State) : Prop := ∀ space a, t.byteAt space a = s.byteAt space a

/-- One received byte comes to the block: under `SerialQueued` P pushes it, under `UsbDirect` it is the transport's to hand
out (00_scope.md R18). -/
def offer (x : Byte) (s : State) : Host.Outcome State Fault Refusal :=
  match s.cfgTransport with
  | .serialQueued => exec (.qPush x) s
  | .usbDirect => .next (deliver [x] s)

/-- The trace `feed` of 30_encoding.md R111, each step with its own tick: a byte comes and is decoded, then the next. The
answer is the `complete` flag of each step and the state at the end; none if a step stops. -/
def feed : List (Nat × Byte) → State → Option (List Bool × State)
  | [], s => some ([], s)
  | (tick, x) :: rest, s =>
    match offer x s with
    | .next s1 =>
      match exec (.decStep tick) s1 with
      | .next s2 => (feed rest s2).map fun (flags, t) => (s2.result.complete :: flags, t)
      | _ => none
    | _ => none

/-- The transport accepts `n` bytes one after the other; none if a transition stops. -/
def acceptTimes : Nat → State → Option State
  | 0, s => some s
  | n + 1, s =>
    match acceptTurn s with
    | .next t => acceptTimes n t
    | _ => none

/-- From `t` the transport's acceptances send exactly the bytes `w`, one at a time, behind those that `s` had sent: the send
is busy until the last of them and returns `ok` with it (43_frame_encoder.md R212). -/
def WritesBytes (s t : State) (w : List Byte) : Prop :=
  (∃ u, acceptTimes w.length t = some u ∧ u.sent = s.sent ++ w ∧ u.encBusy = false ∧ u.result = .ok) ∧
  ∀ n, n < w.length → ∃ u, acceptTimes n t = some u ∧ u.encBusy = true ∧ u.sent = s.sent ++ w.take n

/-- The `(x_1 + ... + x_n)` and `(n*x_1 + ... + 1*x_n)` of 42_checksum_engine.md R194, before reduction. -/
def plainSum : List Byte → Nat
  | [] => 0
  | x :: xs => x.toNat + plainSum xs

/-- The weighted sum: the first byte counts as often as there are bytes. -/
def weightedSum : List Byte → Nat
  | [] => 0
  | x :: xs => (xs.length + 1) * x.toNat + weightedSum xs

end Sys2Proof.Machine
end

