-- ==== Sys2Proof/Certificates/Slice0/Obligations.lean ====
section
/-! DEFINITION. What is claimed of the machine. Each docstring says which rule of the spec the statement formalises.

A frame is written `t = { s with f := t.f, ... }`: every field of the state but the named ones is unchanged. Memory is
also framed through the model's read of one byte (`SameBytes`, `SameBytesBut`). -/

open Sys2Proof Sys2Proof.Machine

/-! Encoding. -/

/-- Decoding an encoded well-formed operation gives it back, whatever bytes follow. The operand bytes are the model's own
format (log 1). -/
def Obligations.DecodeOfEncodeIsTheOperation : Prop :=
  ∀ (p : Params) (i : Instr) (rest : List Byte),
    i.wellFormed p = true → decode p (encode p i ++ rest) = .ok (i, rest)

/-- What the decoder reads is well-formed, is read from a non-empty prefix, and does not depend on the bytes behind it. -/
def Obligations.DecodeReadsAWellFormedPrefix : Prop :=
  ∀ (p : Params) (bs rest : List Byte) (i : Instr), decode p bs = .ok (i, rest) →
    i.wellFormed p = true ∧
    ∃ used, used ≠ [] ∧ bs = used ++ rest ∧ ∀ rest', decode p (used ++ rest') = .ok (i, rest')

/-- Codes of no format are refused by name (the model's format, log 1), and the reserved decoder state codes 9 to 15 are
read as `AwaitSync0` (30_encoding.md R108 item 1). -/
def Obligations.ReservedCodesRefusedOrAwaitSync0 : Prop :=
  (∀ (p : Params) (op : Byte) (bs : List Byte),
    (3 ≤ op.toNat / 16 ∨ (op.toNat / 16 = 2 ∧ op.toNat % 16 ≠ 0)) → decode p (op :: bs) = .error .reservedCode) ∧
  (∀ (p : Params) (op : Byte) (bs : List Byte),
    op.toNat / 16 = 1 → 9 ≤ op.toNat % 16 → decode p (op :: bs) = decode p (0x10 :: bs))

/-- A few codes decode to the operations they stand for. Their numbers are the spec's (`opsel`, 30_encoding.md R109; the
`DSTATE` codes, R107) and so is the frame's layout (R100); the format of the code byte, the 0x20 before a frame and the
operand bytes are the model's choice (log 1), and so is the instance (log 4). -/
def Obligations.WrittenOutCodesDecode : Prop :=
  decode Config.illustrative [0x00] = .ok (.reset, []) ∧
  decode Config.illustrative [0x01, 0x7E] = .ok (.qPush 0x7E, []) ∧
  decode Config.illustrative [0x05, 0x11, 0x27, 0x00, 0x00] = .ok (.decStep 10001, []) ∧
  decode Config.illustrative [0x0E, 0xEF, 0xBE, 0x02, 0x00, 0xDE, 0xAD] = .ok (.txSend 0xBEEF [0xDE, 0xAD], []) ∧
  decode Config.illustrative [0x16, 0x07] = .ok (.actPayload 0x07, []) ∧
  decode Config.illustrative [0x20, 0xA5, 0x5A, 0x34, 0x12, 0x03, 0x00, 0xA5, 0x5A, 0x07, 0x4F, 0x91] =
    .ok (.frame 0x1234 [0xA5, 0x5A, 0x07] 0x914F, [])

/-- 30_encoding.md R100: the frame is `8 + len` bytes, each at its offset, every 16-bit field low byte first. -/
def Obligations.FrameHasEachFieldAtItsOffset : Prop :=
  ∀ (sync0 sync1 : Byte) (id ck : Word16) (payload : List Byte), payload.length < 65536 →
    let w := frameBytes sync0 sync1 id payload ck
    w.length = 8 + payload.length ∧
    w[0]? = some sync0 ∧ w[1]? = some sync1 ∧
    w[2]? = some (BitVec.ofNat 8 id.toNat) ∧ w[3]? = some (BitVec.ofNat 8 (id.toNat / 256)) ∧
    w[4]? = some (BitVec.ofNat 8 payload.length) ∧ w[5]? = some (BitVec.ofNat 8 (payload.length / 256)) ∧
    (∀ k, k < payload.length → w[6 + k]? = payload[k]?) ∧
    w[6 + payload.length]? = some (BitVec.ofNat 8 ck.toNat) ∧
    w[7 + payload.length]? = some (BitVec.ofNat 8 (ck.toNat / 256))

/-! Steps. -/

/-- A consumer turn performs C's next request, and another agent's turn its operation: the step is `exec` of the decoded
operation in the state with that turn, and that request, taken off (the model's scheduling, log 3). P's operation is
performed where P exists, under `SerialQueued` (00_scope.md R18); without P its code is refused by name (log 17). -/
def Obligations.StepIsExecOfTheDecodedOperation : Prop :=
  (∀ (s : State) (i : Instr) (code : List Byte) (ts : List Turn) (rs : List Request),
    s.turns = .consumer :: ts → s.requests = .op code :: rs →
    s.encBusy = false → s.pulseLeft = 0 → s.pollPhase = .idle →
    decodeWhole s.params code = .ok i → i.agent = .consumer → selected i s = true →
    step s = exec i { s with turns := ts, requests := rs }) ∧
  (∀ (s : State) (i : Instr) (code : List Byte) (ts : List Turn),
    s.turns = .outside code :: ts → decodeWhole s.params code = .ok i → i.agent ≠ .consumer →
    (i.agent = .producer → s.cfgTransport = .serialQueued) →
    step s = exec i { s with turns := ts }) ∧
  (∀ (s : State) (i : Instr) (code : List Byte) (ts : List Turn),
    s.turns = .outside code :: ts → decodeWhole s.params code = .ok i → i.agent = .producer →
    s.cfgTransport = .usbDirect → step s = .refused .noProducer)

/-- `withFetchWord` places exactly the operation that the bits encode: the very next step is `exec` of it, in a state that
differs only in what it takes for C to be free, for `DSTATE` to select a byte action, and for P to exist (log 3). -/
def Obligations.PlacedWordIsTheNextOperation : Prop :=
  ∀ (s : State) (nbits w : Nat) (i : Instr) (rest : List Byte),
    decode s.params (tableBytes s.params nbits w) = .ok (i, rest) →
    step (s.withFetchWord nbits w) = exec i
      (if i.agent = .consumer then
        { s with
          encBusy := false, pollPhase := .idle, pulseLeft := 0, dstate := (actionState i).getD s.dstate }
      else { s with cfgTransport := if i.agent = .producer then .serialQueued else s.cfgTransport })

/-- The receive interrupt is one `Q_PUSH` of the received byte, and under `UsbDirect` there is no interrupt path
(60_exceptions.md R258). That the received bytes wait in the list `line`, that the interrupt takes its oldest, and that an
interrupt's turn with nothing waiting or without P changes only itself, is the model's choice (log 16). -/
def Obligations.InterruptPushesTheOldestByte : Prop :=
  ∀ (s : State) (ts : List Turn), s.turns = .interrupt :: ts →
    (∀ b rest, s.cfgTransport = .serialQueued → s.line = b :: rest →
      step s = exec (.qPush b) { s with turns := ts, line := rest }) ∧
    (s.cfgTransport = .usbDirect ∨ s.line = [] → step s = .next { s with turns := ts })

/-! Invariants. -/

/-- Every step keeps the invariants of 10_state.md R50 (items 1, 2, 3, 5 and 6), the memories' canonical form, the validity
window's relation to the decoder, and C's being in one place at a time (log 24). -/
def Obligations.StepKeepsTheInvariant : Prop :=
  ∀ s t : State, StateInv s → step s = .next t → StateInv t

/-- The reset state of every legal instance has the invariant; so has the model's own, whose parameters are a DESIGN
CHOICE (log 4). -/
def Obligations.ResetStateHasTheInvariant : Prop :=
  (∀ p : Params, p.legal → StateInv (State.resetOf p)) ∧ StateInv State.reset

/-- In a state with the invariant no step faults: "No bounds fault exists because no rule can produce an out-of-range
address" (20_memory.md R77). -/
def Obligations.InvariantStatesNeverFault : Prop :=
  ∀ (s : State) (f : Fault), StateInv s → step s ≠ .fault f

/-- `RESET` establishes the invariant from any state of a legal instance whose caller's memory is in canonical form. -/
def Obligations.ResetEstablishesTheInvariant : Prop :=
  ∀ s : State, s.params.legal → Mem.wf s.txm → ∃ t, exec .reset s = .next t ∧ StateInv t

/-! Reset. -/

/-- 10_state.md R49: `RESET` completes in every state; each register whose value the table gives has it, `CFG.TRANSPORT`
is the parameter, the received message is outside its window, and the bytes already sent stay sent. Nothing is said of
the registers and bytes that the table leaves unspecified. -/
def Obligations.ResetSetsTheTable : Prop :=
  ∀ s : State, ∃ t, exec .reset s = .next t ∧
    t.dstate = .awaitSync0 ∧ t.qIn = 0 ∧ t.qOut = 0 ∧ t.qCount = 0 ∧ t.status = 0 ∧
    t.cfgTransport = s.params.transport ∧ t.ckA = 0 ∧ t.ckB = 0 ∧ t.encBusy = false ∧ t.rxValid = false ∧
    t.sent = s.sent

/-- What is not state of the block stays at a `RESET`: the parameters, the record of events and of what went out, the
transport's bytes, the caller's memory and what the agents have yet to do (the model's choice, log 20). -/
def Obligations.ResetLeavesTheOutsideAlone : Prop :=
  ∀ s : State, ∃ t, exec .reset s = .next t ∧
    t.params = s.params ∧ t.events = s.events ∧ t.pulses = s.pulses ∧ t.handed = s.handed ∧ t.line = s.line ∧
    t.txm = s.txm ∧ t.turns = s.turns ∧ t.requests = s.requests ∧ t.evaluator = s.evaluator ∧ t.draws = s.draws

/-! The Receive Queue and the status register. -/

/-- 40_receive_queue.md R131: the byte is stored at `Q_IN`, which advances mod `N`, the count grows by one, and nothing
else changes; the producer is told nothing. -/
def Obligations.PushStoresTheByte : Prop :=
  ∀ (s : State) (x : Byte), s.qCount < s.params.queueCap → s.qIn < s.params.queueCap →
    ∃ t, exec (.qPush x) s = .next t ∧
      t.byteAt .qb s.qIn = x ∧ t.qIn = (s.qIn + 1) % s.params.queueCap ∧ t.qCount = s.qCount + 1 ∧
      t = { s with qb := t.qb, qIn := t.qIn, qCount := t.qCount } ∧
      SameBytesBut .qb (fun a => a = s.qIn) s t ∧
      SameBytesBut .pl (fun _ => False) s t ∧ SameBytesBut .txm (fun _ => False) s t

/-- 40_receive_queue.md R132: a push on a full queue drops the arriving byte, raises `EV_Q_OVERFLOW`, sets `STATUS.Q_OVF`
and changes nothing else. -/
def Obligations.PushOnFullQueueDropsTheByte : Prop :=
  ∀ (s : State) (x : Byte), s.qCount = s.params.queueCap →
    ∃ t, exec (.qPush x) s = .next t ∧
      t.qOvf = true ∧ t.lenRej = s.lenRej ∧ t.events = s.events ++ [.qOverflow] ∧
      t = { s with status := t.status, events := t.events } ∧ SameBytes s t

/-- 40_receive_queue.md R133: an empty queue answers none and nothing changes; otherwise the byte at `Q_OUT` is returned,
`Q_OUT` advances mod `N` and the count falls by one. -/
def Obligations.PopReturnsTheByteAtOut : Prop :=
  (∀ s : State, s.qCount = 0 →
    ∃ t, exec .qPop s = .next t ∧ t = { s with result := .popped none } ∧ SameBytes s t) ∧
  (∀ s : State, 0 < s.qCount → s.qOut < s.params.queueCap →
    ∃ t, exec .qPop s = .next t ∧ t.result = .popped (some (s.byteAt .qb s.qOut)) ∧
      t.qOut = (s.qOut + 1) % s.params.queueCap ∧ t.qCount = s.qCount - 1 ∧
      t = { s with qOut := t.qOut, qCount := t.qCount, result := t.result } ∧ SameBytes s t)

/-- 40_receive_queue.md R134 and R135: reading returns the two bits and clears nothing; clearing clears exactly the bits
whose mask bit is 1. -/
def Obligations.StatusIsReadAndClearedBitwise : Prop :=
  (∀ s : State, ∃ t, exec .statusRead s = .next t ∧ t = { s with result := .status s.status } ∧ SameBytes s t) ∧
  (∀ (s : State) (mask : BitVec 2), ∃ t, exec (.statusClear mask) s = .next t ∧
    t.qOvf = (s.qOvf && !mask.getLsbD 0) ∧ t.lenRej = (s.lenRej && !mask.getLsbD 1) ∧
    t = { s with status := t.status, result := .done } ∧ SameBytes s t)

/-- The queue is a first-in first-out list of at most `N` bytes (20_memory.md R82, R84; 40_receive_queue.md R136): a push
appends or, at `N` bytes, changes nothing; a pop takes the head. Both keep the queue's invariant. -/
def Obligations.QueueIsAFifoList : Prop :=
  ∀ s : State, QueueInv s →
    (queueBytes s).length = s.qCount ∧
    (∀ x : Byte, ∃ t, exec (.qPush x) s = .next t ∧ QueueInv t ∧
      queueBytes t = if s.qCount < s.params.queueCap then queueBytes s ++ [x] else queueBytes s) ∧
    (∃ t, exec .qPop s = .next t ∧ QueueInv t ∧
      t.result = .popped (queueBytes s).head? ∧ queueBytes t = (queueBytes s).tail)

/-- 20_memory.md R76 item 4, the queue neither empty nor full: a push and a pop give one state in either order, and the
count is unchanged. -/
def Obligations.PushAndPopCommute : Prop :=
  ∀ (s : State) (x : Byte), QueueInv s → 0 < s.qCount → s.qCount < s.params.queueCap →
    ∃ s1 s2 t, exec (.qPush x) s = .next s1 ∧ exec .qPop s1 = .next t ∧
      exec .qPop s = .next s2 ∧ exec (.qPush x) s2 = .next t ∧ t.qCount = s.qCount

/-! The byte actions of the Frame Decoder. -/

/-- 41_frame_decoder.md R154. -/
def Obligations.AwaitSync0TakesOnlySync0 : Prop :=
  ∀ (s : State) (tick : Nat) (b : Byte), ∃ t, exec (.actAwaitSync0 tick b) s = .next t ∧
    (b = s.params.sync0 → t = { s with
      tMark := tick % 2 ^ s.params.tickW, dstate := .awaitSync1, result := .stepped true false }) ∧
    (b ≠ s.params.sync0 → t = { s with result := .stepped true false }) ∧ SameBytes s t

/-- 41_frame_decoder.md R155. -/
def Obligations.AwaitSync1TakesSync1OrFallsBack : Prop :=
  ∀ (s : State) (b : Byte), ∃ t, exec (.actAwaitSync1 b) s = .next t ∧
    t.dstate = (if b = s.params.sync1 then .identifierLow else .awaitSync0) ∧
    t = { s with dstate := t.dstate, result := .stepped true false } ∧ SameBytes s t

/-- 41_frame_decoder.md R156 and R157: each byte replaces its half of `RX_ID` and keeps the other half; the last received
message is no longer valid. -/
def Obligations.IdentifierBytesFillTheirHalves : Prop :=
  (∀ (s : State) (b : Byte), ∃ t, exec (.actIdentifierLow b) s = .next t ∧
    t.rxId.toNat % 256 = b.toNat ∧ t.rxId.toNat / 256 = s.rxId.toNat / 256 ∧ t.dstate = .identifierHigh ∧
    t = { s with rxId := t.rxId, rxValid := false, dstate := t.dstate, result := .stepped true false } ∧
    SameBytes s t) ∧
  (∀ (s : State) (b : Byte), ∃ t, exec (.actIdentifierHigh b) s = .next t ∧
    t.rxId.toNat / 256 = b.toNat ∧ t.rxId.toNat % 256 = s.rxId.toNat % 256 ∧ t.dstate = .lengthLow ∧
    t = { s with rxId := t.rxId, rxValid := false, dstate := t.dstate, result := .stepped true false } ∧
    SameBytes s t)

/-- 41_frame_decoder.md R158. -/
def Obligations.LengthLowFillsItsHalf : Prop :=
  ∀ (s : State) (b : Byte), ∃ t, exec (.actLengthLow b) s = .next t ∧
    t.rxLen.toNat % 256 = b.toNat ∧ t.rxLen.toNat / 256 = s.rxLen.toNat / 256 ∧ t.dstate = .lengthHigh ∧
    t = { s with rxLen := t.rxLen, rxValid := false, dstate := t.dstate, result := .stepped true false } ∧
    SameBytes s t

/-- 41_frame_decoder.md R159: the length is assembled and copied to `REMAINING`; length 0 goes on to the checksum, a length
above `PAYLOAD_CAP` raises `EV_LEN_REJECT` and abandons the frame, any other enters `Payload`. `complete` stays 0. -/
def Obligations.LengthHighBoundsTheLength : Prop :=
  ∀ (s : State) (b : Byte), ∃ t, exec (.actLengthHigh b) s = .next t ∧
    t.rxLen.toNat / 256 = b.toNat ∧ t.rxLen.toNat % 256 = s.rxLen.toNat % 256 ∧ t.remaining = t.rxLen ∧
    (t.rxLen = 0 → t.dstate = .checksumLow ∧ t.status = s.status ∧ t.events = s.events) ∧
    (t.rxLen ≠ 0 → s.params.payloadCap < t.rxLen.toNat →
      t.dstate = .awaitSync0 ∧ t.lenRej = true ∧ t.qOvf = s.qOvf ∧ t.events = s.events ++ [.lenReject]) ∧
    (t.rxLen ≠ 0 → t.rxLen.toNat ≤ s.params.payloadCap →
      t.dstate = .payload ∧ t.status = s.status ∧ t.events = s.events) ∧
    t = { s with
      rxLen := t.rxLen, remaining := t.remaining, rxValid := false, dstate := t.dstate, status := t.status
      events := t.events, result := .stepped true false } ∧
    SameBytes s t

/-- 41_frame_decoder.md R160, where 10_state.md R50 item 3 holds: the byte goes to `PL` at `RX_LEN - REMAINING`, `REMAINING`
falls by one, and at 0 the decoder goes on to the checksum. -/
def Obligations.PayloadByteIsStoredInOrder : Prop :=
  ∀ (s : State) (b : Byte), s.dstate = .payload → 1 ≤ s.remaining.toNat → s.remaining.toNat ≤ s.rxLen.toNat →
    s.rxLen.toNat ≤ s.params.payloadCap →
    ∃ t, exec (.actPayload b) s = .next t ∧
      t.byteAt .pl (s.rxLen.toNat - s.remaining.toNat) = b ∧ t.remaining.toNat = s.remaining.toNat - 1 ∧
      t.dstate = (if s.remaining.toNat = 1 then .checksumLow else .payload) ∧
      t = { s with
        pl := t.pl, remaining := t.remaining, rxValid := false, dstate := t.dstate
        result := .stepped true false } ∧
      SameBytesBut .pl (fun a => a = s.rxLen.toNat - s.remaining.toNat) s t ∧
      SameBytesBut .qb (fun _ => False) s t ∧ SameBytesBut .txm (fun _ => False) s t

/-- 41_frame_decoder.md R161 and R162: each byte replaces its half of `RX_CK`; the second completes the frame and opens the
validity window (10_state.md R34). -/
def Obligations.ChecksumBytesCompleteTheFrame : Prop :=
  (∀ (s : State) (b : Byte), ∃ t, exec (.actChecksumLow b) s = .next t ∧
    t.rxCk.toNat % 256 = b.toNat ∧ t.rxCk.toNat / 256 = s.rxCk.toNat / 256 ∧ t.dstate = .checksumHigh ∧
    t = { s with rxCk := t.rxCk, rxValid := false, dstate := t.dstate, result := .stepped true false } ∧
    SameBytes s t) ∧
  (∀ (s : State) (b : Byte), ∃ t, exec (.actChecksumHigh b) s = .next t ∧
    t.rxCk.toNat / 256 = b.toNat ∧ t.rxCk.toNat % 256 = s.rxCk.toNat % 256 ∧ t.dstate = .awaitSync0 ∧
    t = { s with rxCk := t.rxCk, rxValid := true, dstate := t.dstate, result := .stepped true true } ∧
    SameBytes s t)

/-! `DEC_STEP`, `DEC_RESET`, `MSG_READ`. -/

/-- 41_frame_decoder.md R151 and R152, no timeout due: with no byte pending the step answers (0, 0) and changes nothing;
with one pending it takes exactly that byte, from the queue alone under `SerialQueued` and, with no `Q_POP`, from the
transport alone under `UsbDirect` (10_state.md R44, R52), and does what `DSTATE` selects on it. -/
def Obligations.DecStepActsOnOneByte : Prop :=
  ∀ (s : State) (tick : Nat), QueueInv s → s.dstate = .awaitSync0 ∨ s.elapsed tick ≤ s.params.resyncTicks →
    (pendingBytes s = [] → exec (.decStep tick) s = .next { s with result := .stepped false false }) ∧
    (∀ b rest, pendingBytes s = b :: rest →
      ∃ u, exec (.decStep tick) s = exec (actionFor s.dstate tick b) u ∧ pendingBytes u = rest ∧
        (s.cfgTransport = .serialQueued →
          u = { s with qOut := (s.qOut + 1) % s.params.queueCap, qCount := s.qCount - 1 }) ∧
        (s.cfgTransport = .usbDirect → u = { s with line := rest }))

/-- From every state with the invariant and every tick, `DEC_STEP` completes, takes the oldest pending byte if there is
one, and says whether it did (41_frame_decoder.md R151, R152). -/
def Obligations.DecStepCompletes : Prop :=
  ∀ (s : State) (tick : Nat), StateInv s → ∃ t complete, exec (.decStep tick) s = .next t ∧
    t.result = .stepped (!(pendingBytes s).isEmpty) complete ∧ pendingBytes t = (pendingBytes s).tail

/-- 41_frame_decoder.md R153: mid-frame, the timeout fires exactly when the unsigned `TICK_W`-bit difference of the tick
and `T_MARK` is more than the threshold; firing is `DSTATE <- AwaitSync0` and the record of the event, and the step goes on
from there; otherwise the step does what it does with no time elapsed, and raises no `EV_RESYNC`. -/
def Obligations.TimeoutFiresStrictlyAboveTheThreshold : Prop :=
  ∀ (s : State) (tick : Nat), s.dstate ≠ .awaitSync0 → s.tMark < 2 ^ s.params.tickW → tick < 2 ^ s.params.tickW →
    let elapsed := if s.tMark ≤ tick then tick - s.tMark else tick + 2 ^ s.params.tickW - s.tMark
    (s.params.resyncTicks < elapsed →
      exec (.decStep tick) s =
        exec (.decStep tick) { s with dstate := .awaitSync0, events := s.events ++ [.resync] }) ∧
    (elapsed ≤ s.params.resyncTicks →
      exec (.decStep tick) s = exec (.decStep s.tMark) s ∧
      ∀ t, exec (.decStep tick) s = .next t → t.events = s.events ∨ t.events = s.events ++ [.lenReject])

/-- 41_frame_decoder.md R169: after a timeout the next byte is a fresh sync-0 candidate. -/
def Obligations.ByteAfterTimeoutIsASyncCandidate : Prop :=
  ∀ (s : State) (tick : Nat) (b : Byte) (rest : List Byte), QueueInv s → s.dstate ≠ .awaitSync0 →
    s.params.resyncTicks < s.elapsed tick → pendingBytes s = b :: rest →
    ∃ t, exec (.decStep tick) s = .next t ∧ t.result = .stepped true false ∧ pendingBytes t = rest ∧
      (b = s.params.sync0 → t.dstate = .awaitSync1 ∧ t.tMark = tick % 2 ^ s.params.tickW) ∧
      (b ≠ s.params.sync0 → t.dstate = .awaitSync0 ∧ t.tMark = s.tMark)

/-- 41_frame_decoder.md R152: one decode call takes at most one byte, the oldest, and says so. -/
def Obligations.DecStepTakesAtMostOneByte : Prop :=
  ∀ (s t : State) (tick : Nat), exec (.decStep tick) s = .next t →
    (t.result = .stepped false false ∧ pendingBytes s = [] ∧ pendingBytes t = []) ∨
    (t.result.consumed = true ∧ ∃ b, pendingBytes s = b :: pendingBytes t)

/-- `complete` is 1 only when the step consumed the `ChecksumHigh` byte in time (10_state.md R46; 41_frame_decoder.md R162):
then the decoder is back in `AwaitSync0` and the message is valid. -/
def Obligations.CompleteOnlyFromChecksumHigh : Prop :=
  ∀ (s t : State) (tick : Nat), exec (.decStep tick) s = .next t → t.result.complete = true →
    s.dstate = .checksumHigh ∧ s.elapsed tick ≤ s.params.resyncTicks ∧ t.dstate = .awaitSync0 ∧ t.rxValid = true ∧
    t.rxId = s.rxId ∧ t.rxLen = s.rxLen ∧ t.pl = s.pl ∧ ∃ b, pendingBytes s = b :: pendingBytes t ∧
      t.rxCk.toNat = s.rxCk.toNat % 256 + 256 * b.toNat

/-- 41_frame_decoder.md R163: `DEC_RESET` writes `DSTATE` only; the received message stays valid if the decoder was in
`AwaitSync0` or `AwaitSync1`, and leaves its window otherwise. -/
def Obligations.DecResetWritesDstateOnly : Prop :=
  ∀ s : State, ∃ t, exec .decReset s = .next t ∧ t.dstate = .awaitSync0 ∧
    (s.dstate = .awaitSync0 ∨ s.dstate = .awaitSync1 → t.rxValid = s.rxValid) ∧
    (s.dstate ≠ .awaitSync0 → s.dstate ≠ .awaitSync1 → t.rxValid = false) ∧
    t = { s with dstate := t.dstate, rxValid := t.rxValid, result := .done } ∧ SameBytes s t

/-- 41_frame_decoder.md R164: `MSG_READ` always completes and writes nothing of the block; inside the validity window it
returns the registers and the payload bytes below `RX_LEN`; an index at or past `PAYLOAD_CAP` is refused. Elsewhere its
value is unspecified and nothing is said of it. -/
def Obligations.MsgReadReturnsTheReceivedMessage : Prop :=
  ∀ (s : State) (sel : MsgSel) (i : Word16), ∃ t, exec (.msgRead sel i) s = .next t ∧
    t = { s with result := t.result, draws := t.draws } ∧ SameBytes s t ∧
    (s.rxValid = true → sel = .id → t.result = .word s.rxId) ∧
    (s.rxValid = true → sel = .len → t.result = .word s.rxLen) ∧
    (s.rxValid = true → sel = .ck → t.result = .word s.rxCk) ∧
    (s.rxValid = true → sel = .payload → i.toNat < s.params.payloadCap → i.toNat < s.rxLen.toNat →
      t.result = .byte (s.byteAt .pl i.toNat)) ∧
    (sel = .payload → s.params.payloadCap ≤ i.toNat → t = { s with result := .refused })

/-- 41_frame_decoder.md R167: no second look at a byte. With distinct sync bytes `SYNC0 SYNC0 SYNC1` leaves the decoder in
`AwaitSync0`; with equal ones two of them put it in `IdentifierLow` and the third is the identifier's low byte. -/
def Obligations.SyncBytesAreNotLookedAtTwice : Prop :=
  ∀ (s : State) (t0 t1 t2 : Nat), s.dstate = .awaitSync0 →
    ∃ s1 s2 s3, exec (actionFor s.dstate t0 s.params.sync0) s = .next s1 ∧
      exec (actionFor s1.dstate t1 s.params.sync0) s1 = .next s2 ∧
      exec (actionFor s2.dstate t2 s.params.sync1) s2 = .next s3 ∧
      (s.params.sync0 ≠ s.params.sync1 → s3.dstate = .awaitSync0) ∧
      (s.params.sync0 = s.params.sync1 → s2.dstate = .identifierLow ∧ s3.dstate = .identifierHigh ∧
        s3.rxId.toNat % 256 = s.params.sync1.toNat)

/-- 41_frame_decoder.md R166: all the ways `DSTATE` becomes `AwaitSync0`. -/
def Obligations.AllTheWaysToAwaitSync0 : Prop :=
  ∀ (i : Instr) (s t : State), selected i s = true → exec i s = .next t →
    s.dstate ≠ .awaitSync0 → t.dstate = .awaitSync0 →
    i = .reset ∨ i = .decReset ∨
    ((∃ tick, i = .decStep tick ∧ s.params.resyncTicks < s.elapsed tick) ∧ t.events = s.events ++ [.resync]) ∨
    (s.dstate = .awaitSync1 ∧ t.result = .stepped true false ∧ ∃ b, b ≠ s.params.sync1 ∧
      (i = .actAwaitSync1 b ∨ ∃ tick, i = .decStep tick ∧ pendingBytes s = b :: pendingBytes t)) ∨
    (s.dstate = .lengthHigh ∧ t.events = s.events ++ [.lenReject]) ∨
    (s.dstate = .checksumHigh ∧ t.result = .stepped true true)

/-- 10_state.md R39: besides `RESET`, `T_MARK` is written only when a `SYNC0` byte is consumed in `AwaitSync0`, with that
step's tick: by a `DEC_STEP` that entered in `AwaitSync0` or whose timeout put it there, or by that state's own action. -/
def Obligations.MarkIsWrittenOnlyAtSync0 : Prop :=
  ∀ (i : Instr) (s t : State), exec i s = .next t → t.tMark ≠ s.tMark →
    i = .reset ∨
    ∃ tick, t.tMark = tick % 2 ^ s.params.tickW ∧ t.dstate = .awaitSync1 ∧ t.result = .stepped true false ∧
      (i = .actAwaitSync0 tick s.params.sync0 ∨
        (i = .decStep tick ∧ pendingBytes s = s.params.sync0 :: pendingBytes t ∧
          (s.dstate = .awaitSync0 ∨ s.params.resyncTicks < s.elapsed tick)))

/-- 41_frame_decoder.md R170: a frame within capacity that is fed to an idle decoder under either transport, each byte
coming and then being decoded with no timeout, completes at its last byte and at no other, and leaves exactly its
identifier, length, payload and checksum as the received message; if the checksum is that of the message, `CK_VERIFY`
returns 1, and otherwise 0. -/
def Obligations.FedFrameIsReceived : Prop :=
  ∀ (s : State) (id ck : Word16) (payload : List Byte) (ticks : List Nat),
    StateInv s → s.dstate = .awaitSync0 → pendingBytes s = [] →
    payload.length ≤ s.params.payloadCap → ticks.length = payload.length + 8 →
    (∀ tick ∈ ticks, { s with tMark := s.tickReg ticks.head! }.elapsed tick ≤ s.params.resyncTicks) →
    ∃ t, feed (ticks.zip (frameBytes s.params.sync0 s.params.sync1 id payload ck)) s =
        some (List.replicate (payload.length + 7) false ++ [true], t) ∧
      t.rxValid = true ∧ t.rxId = id ∧ t.rxLen.toNat = payload.length ∧ t.rxCk = ck ∧
      (∀ k, k < payload.length → payload[k]? = some (t.byteAt .pl k)) ∧
      ∃ u, exec .ckVerify t = .next u ∧ u.result = .verified (decide (messageCk id payload = ck))

/-! The Checksum Engine. -/

/-- 42_checksum_engine.md R191, R192 and R193. -/
def Obligations.ChecksumPrimitivesFollowTheUpdateLaw : Prop :=
  (∀ s : State, ∃ t, exec .ckInit s = .next t ∧ t = { s with ckA := 0, ckB := 0, result := .done } ∧ SameBytes s t) ∧
  (∀ (s : State) (x : Byte), ∃ t, exec (.ckUpdate x) s = .next t ∧
    t.ckA.toNat = (s.ckA.toNat + x.toNat) % 256 ∧ t.ckB.toNat = (s.ckB.toNat + t.ckA.toNat) % 256 ∧
    t = { s with ckA := t.ckA, ckB := t.ckB, result := .done } ∧ SameBytes s t) ∧
  (∀ s : State, ∃ t v, exec .ckResult s = .next t ∧ v.toNat = s.ckB.toNat * 256 + s.ckA.toNat ∧
    t = { s with result := .word v } ∧ SameBytes s t)

/-- 42_checksum_engine.md R194: the checksum of a byte sequence in closed form. -/
def Obligations.ChecksumHasTheClosedForm : Prop :=
  ∀ (bytes : List Byte) (s : State),
    (ckResult (ckRun bytes s)).toNat = (weightedSum bytes % 256) * 256 + plainSum bytes % 256 ∧
    ckResult (ckRun bytes s) = ck bytes

/-- 42_checksum_engine.md R198: changing one byte changes the checksum; two changed bytes, or another length, need not. -/
def Obligations.OneChangedByteChangesTheChecksum : Prop :=
  (∀ (before after : List Byte) (x y : Byte), x ≠ y → ck (before ++ x :: after) ≠ ck (before ++ y :: after)) ∧
  ck [0x00, 0x02, 0x00] = ck [0x01, 0x00, 0x01] ∧ messageCk 2 [] = messageCk 1 [0x00]

/-- 42_checksum_engine.md R195: an operand within capacity gives the checksum of its header and payload and leaves it in
the accumulators; a longer one is rejected with the accumulators unchanged (nothing is said here of the record of events,
log 11). -/
def Obligations.CkMsgComputesOrRejects : Prop :=
  ∀ (s : State) (id : Word16) (payload : List Byte), ∃ t, exec (.ckMsg id payload) s = .next t ∧
    (payload.length ≤ s.params.payloadCap →
      t.result = .word (ck ([lowByte id, highByte id, lowByte (lenField payload), highByte (lenField payload)] ++
        payload)) ∧
      t.result = .word (joinBytes t.ckA t.ckB) ∧
      t = { s with ckA := t.ckA, ckB := t.ckB, result := t.result }) ∧
    (s.params.payloadCap < payload.length → t = { s with result := .rejected, events := t.events }) ∧
    SameBytes s t

/-- 42_checksum_engine.md R196: inside the validity window the result is whether the checksum of the received header and
payload equals `RX_CK`, all 16 bits; the accumulators keep the computed checksum. Outside the window the operation still
completes and its result is unspecified. -/
def Obligations.CkVerifyComparesWithTheReceivedChecksum : Prop :=
  (∀ s : State, s.rxValid = true → s.rxLen.toNat ≤ s.params.payloadCap →
    ∃ t, exec .ckVerify s = .next t ∧
      joinBytes t.ckA t.ckB = ck ([lowByte s.rxId, highByte s.rxId, lowByte s.rxLen, highByte s.rxLen] ++
        (List.range s.rxLen.toNat).map (s.byteAt .pl)) ∧
      t.result = .verified (decide (joinBytes t.ckA t.ckB = s.rxCk)) ∧
      t = { s with ckA := t.ckA, ckB := t.ckB, result := t.result } ∧ SameBytes s t) ∧
  (∀ s : State, s.rxValid = false → ∃ t, exec .ckVerify s = .next t ∧
    t = { s with ckA := t.ckA, ckB := t.ckB, result := t.result, draws := t.draws } ∧ SameBytes s t)

/-- 10_state.md R35: no operation but the checksum operations, the two sends that run `CK_MSG`, and `RESET` touches the
accumulators; in particular `DEC_STEP` does not. -/
def Obligations.OnlyChecksumOperationsTouchTheAccumulators : Prop :=
  ∀ (i : Instr) (s t : State), exec i s = .next t → (t.ckA ≠ s.ckA ∨ t.ckB ≠ s.ckB) →
    i = .reset ∨ i = .ckInit ∨ (∃ x, i = .ckUpdate x) ∨ (∃ id payload, i = .ckMsg id payload) ∨ i = .ckVerify ∨
    (∃ id payload, i = .txSend id payload) ∨ (∃ id, i = .txSendEmpty id)

/-! The Frame Encoder. -/

/-- 43_frame_encoder.md R211: the start transition latches the operand, with its payload readable in `TXM`, and sends
nothing; an operand longer than `PAYLOAD_CAP` is rejected at once (nothing is said here of the record of events, log 11).
The `ok` after the last byte is said by `ByteTransitionSendsTheByteAtItsOffset` and `SendWritesExactlyOneFrame`. -/
def Obligations.EncFrameLatchesTheOperand : Prop :=
  ∀ (s : State) (id ck : Word16) (payload : List Byte), s.params.legal →
    ∃ t, exec (.encFrame id payload ck) s = .next t ∧
    (payload.length ≤ s.params.payloadCap →
      t.txId = id ∧ t.txLen.toNat = payload.length ∧ t.txCk = ck ∧ t.encPos = 0 ∧ t.encBusy = true ∧
      (∀ k, k < payload.length → payload[k]? = memRead .txm k t) ∧
      t = { s with
        txId := t.txId, txLen := t.txLen, txCk := t.txCk, txm := t.txm, encPos := t.encPos, encBusy := t.encBusy
        result := .pending } ∧
      SameBytesBut .pl (fun _ => False) s t ∧ SameBytesBut .qb (fun _ => False) s t) ∧
    (s.params.payloadCap < payload.length →
      t = { s with result := .rejected, events := t.events } ∧ SameBytes s t)

/-- An operand longer than `PAYLOAD_CAP` is rejected by each of the three operations alike, `EV_TX_REJECT` is recorded, and
nothing else changes (60_exceptions.md R250, R256). That the record holds it is the model's choice (log 11). -/
def Obligations.OversizeOperandsAreRejected : Prop :=
  ∀ (s : State) (id ck : Word16) (payload : List Byte), s.params.payloadCap < payload.length →
    ∀ i ∈ [Instr.ckMsg id payload, .encFrame id payload ck, .txSend id payload],
      exec i s = .next { s with result := .rejected, events := s.events ++ [.txReject] }

/-- 43_frame_encoder.md R212 and R213: while busy, the transport's acceptance moves exactly one byte, the one at frame
offset `ENC_POS`; the send ends with the last byte and returns `ok`. -/
def Obligations.ByteTransitionSendsTheByteAtItsOffset : Prop :=
  ∀ s : State, s.encBusy = true → EncoderInv s →
    ∃ t b, acceptTurn s = .next t ∧ t.sent = s.sent ++ [b] ∧ t.encPos.toNat = s.encPos.toNat + 1 ∧
      (s.encPos.toNat = 0 → b = s.params.sync0) ∧ (s.encPos.toNat = 1 → b = s.params.sync1) ∧
      (s.encPos.toNat = 2 → b.toNat = s.txId.toNat % 256) ∧ (s.encPos.toNat = 3 → b.toNat = s.txId.toNat / 256) ∧
      (s.encPos.toNat = 4 → b.toNat = s.txLen.toNat % 256) ∧ (s.encPos.toNat = 5 → b.toNat = s.txLen.toNat / 256) ∧
      (6 ≤ s.encPos.toNat → s.encPos.toNat < 6 + s.txLen.toNat → memRead .txm (s.encPos.toNat - 6) s = some b) ∧
      (s.encPos.toNat = 6 + s.txLen.toNat → b.toNat = s.txCk.toNat % 256) ∧
      (s.encPos.toNat = 7 + s.txLen.toNat → b.toNat = s.txCk.toNat / 256) ∧
      (t.encPos.toNat = s.txLen.toNat + 8 → t.encBusy = false ∧ t.result = .ok) ∧
      (t.encPos.toNat ≠ s.txLen.toNat + 8 → t.encBusy = true ∧ t.result = s.result) ∧
      t = { s with sent := t.sent, encPos := t.encPos, encBusy := t.encBusy, result := t.result } ∧ SameBytes s t

/-- `TX_SEND` is `CK_MSG` followed by `ENC_FRAME` with that checksum, or the rejection (43_frame_encoder.md R214). That both
are done in `TX_SEND`'s one first transition is the model's choice (log 12). -/
def Obligations.TxSendIsCkMsgThenEncFrame : Prop :=
  ∀ (s : State) (id : Word16) (payload : List Byte), ∃ t u, exec (.txSend id payload) s = .next t ∧
    exec (.ckMsg id payload) s = .next u ∧
    (payload.length ≤ s.params.payloadCap →
      ∃ c, u.result = .word c ∧ exec (.encFrame id payload c) u = .next t ∧ t.encBusy = true ∧ t.txCk = c) ∧
    (s.params.payloadCap < payload.length → u.result = .rejected ∧ t = u)

/-- A send within capacity, once the transport has accepted `8 + len` bytes, has written exactly the frame of 30_encoding.md
R100 and returns `ok`; before that it is still busy (43_frame_encoder.md R212). `ENC_FRAME` writes the checksum it is given,
`TX_SEND` the message's own (R214). -/
def Obligations.SendWritesExactlyOneFrame : Prop :=
  ∀ (s : State) (id ck : Word16) (payload : List Byte), s.params.legal → payload.length ≤ s.params.payloadCap →
    (∃ t, exec (.encFrame id payload ck) s = .next t ∧
      WritesBytes s t (frameBytes s.params.sync0 s.params.sync1 id payload ck)) ∧
    (∃ t, exec (.txSend id payload) s = .next t ∧
      WritesBytes s t (frameBytes s.params.sync0 s.params.sync1 id payload (messageCk id payload)))

/-- 43_frame_encoder.md R215: `TX_SEND_EMPTY(id)` is `TX_SEND(id, 0, [])`, is never refused, and writes exactly eight bytes,
with the checksum in closed form. -/
def Obligations.TxSendEmptyWritesEightBytes : Prop :=
  ∀ (s : State) (id : Word16), s.params.legal →
    ∃ t u, exec (.txSendEmpty id) s = .next t ∧ exec (.txSend id []) s = .next t ∧ t.encBusy = true ∧
      acceptTimes 8 t = some u ∧ u.encBusy = false ∧ u.result = .ok ∧
      u.sent = s.sent ++ [s.params.sync0, s.params.sync1, BitVec.ofNat 8 id.toNat, BitVec.ofNat 8 (id.toNat / 256),
        0x00, 0x00, BitVec.ofNat 8 (id.toNat % 256 + id.toNat / 256),
        BitVec.ofNat 8 (4 * (id.toNat % 256) + 3 * (id.toNat / 256))]

/-- While a send waits for the transport (43_frame_encoder.md R216), or C is inside a blocking pulse (70_reset_and_hazards.md
R294; its end is the model's, log 24), C's turn changes nothing, and no transition but `RESET` touches the decoder, the
message registers, the accumulators or what C has yet to do. Each time unit that passes takes one from what is
left of the pulse. -/
def Obligations.BlockedConsumerDoesNothing : Prop :=
  (∀ s : State, s.encBusy = true ∨ s.pulseLeft ≠ 0 →
    (∀ ts, s.turns = .consumer :: ts → step s = .next { s with turns := ts }) ∧
    (∀ t, step s = .next t → t.epoch = s.epoch →
      t.dstate = s.dstate ∧ t.remaining = s.remaining ∧ t.tMark = s.tMark ∧ t.rxId = s.rxId ∧ t.rxLen = s.rxLen ∧
      t.rxCk = s.rxCk ∧ t.rxValid = s.rxValid ∧ t.pl = s.pl ∧ t.ckA = s.ckA ∧ t.ckB = s.ckB ∧
      t.requests = s.requests ∧ t.pollPhase = s.pollPhase ∧ t.qOut = s.qOut ∧
      (t.pulseLeft ≠ s.pulseLeft → ∃ ts, s.turns = .timeUnit :: ts))) ∧
  (∀ (s : State) (ts : List Turn), s.turns = .timeUnit :: ts →
    step s = .next { s with turns := ts, pulseLeft := s.pulseLeft - 1 })

/-! The wire. -/

/-- A frame that reaches the transport is its bytes, of 30_encoding.md R100, behind those already waiting; the block is not
touched (the meaning of the `FRAME` row is the model's, log 15). A byte that arrives by itself waits behind the others too,
since bytes are given on in arrival order (60_exceptions.md R262, 20_memory.md R82; the list and the turns are the model's,
logs 3, 16). The transport's acceptance is the byte transition of the running send, and with none running changes only
itself (43_frame_encoder.md R212). -/
def Obligations.FrameReachesTheTransport : Prop :=
  (∀ (s : State) (id ck : Word16) (payload : List Byte), ∃ t, exec (.frame id payload ck) s = .next t ∧
    t.line = s.line ++ ([s.params.sync0, s.params.sync1, lowByte id, highByte id, lowByte (lenField payload),
      highByte (lenField payload)] ++ payload ++ [lowByte ck, highByte ck]) ∧
    t = { s with line := t.line } ∧ SameBytes s t) ∧
  (∀ (s : State) (b : Byte) (ts : List Turn), s.turns = .arrive b :: ts →
    step s = .next { s with turns := ts, line := s.line ++ [b] }) ∧
  (∀ (s : State) (ts : List Turn), s.turns = .accept :: ts →
    (s.encBusy = true → step s = encByteTransition { s with turns := ts }) ∧
    (s.encBusy = false → step s = .next { s with turns := ts }))

/-! The Poll Dispatcher. -/

/-- 44_poll_dispatcher.md R231, first transition: `poll(tick)` makes exactly one `DEC_STEP`; every consumed byte gives the
activity pulse of 200, which holds C where pulses block (70_reset_and_hazards.md R294; log 24); a completed frame goes on
to its verification. -/
def Obligations.PollMakesOneDecodeStep : Prop :=
  ∀ (s u : State) (tick : Nat) (ts : List Turn) (rs : List Request),
    s.turns = .consumer :: ts → s.requests = .poll tick :: rs →
    s.encBusy = false → s.pulseLeft = 0 → s.pollPhase = .idle →
    exec (.decStep tick) { s with turns := ts, requests := rs } = .next u →
    ∃ t, step s = .next t ∧
      t.pulses = s.pulses ++ (if u.result.consumed then [⟨.status, 200⟩] else []) ∧
      t.pulseLeft = (if u.result.consumed && s.params.pulseBlocks then 200 else 0) ∧
      t.pollPhase = (if u.result.complete then .verify else .idle) ∧
      t = { u with pulses := t.pulses, pulseLeft := t.pulseLeft, pollPhase := t.pollPhase }

/-- 44_poll_dispatcher.md R231 (3a) and 60_exceptions.md R252: a completed frame whose checksum does not match gives
`EV_CK_MISMATCH` and the short error pulse of 10000, and is not handed to the evaluator; one whose checksum matches gives
neither and goes on to dispatch. -/
def Obligations.PollVerifiesTheFrame : Prop :=
  ∀ (s u : State) (ts : List Turn), s.turns = .consumer :: ts → s.encBusy = false → s.pulseLeft = 0 →
    s.pollPhase = .verify → exec .ckVerify { s with turns := ts } = .next u →
    (u.result = .verified false →
      step s = .next { u with
        events := s.events ++ [.ckMismatch], pulses := s.pulses ++ [⟨.error, 10000⟩]
        pulseLeft := if s.params.pulseBlocks then 10000 else 0, pollPhase := .idle } ∧
      u.handed = s.handed) ∧
    (u.result = .verified true → step s = .next { u with pollPhase := .dispatch })

/-- 44_poll_dispatcher.md R231 (3b): the verified message is handed to the evaluator whole; a reply it makes is the
`TX_SEND` or `TX_SEND_EMPTY` of its message, inside `evaluate` (R234, 60_exceptions.md R265); its answer `unimplemented`
gives `EV_UNIMPLEMENTED` and the long error pulse of 40000, `handled` gives nothing, and either ends the poll. That what
the evaluator does is a list given from outside is the model's choice (log 19). -/
def Obligations.PollDispatchesTheMessage : Prop :=
  (∀ (s : State) (ts : List Turn), s.turns = .consumer :: ts → s.encBusy = false → s.pulseLeft = 0 →
    s.pollPhase = .dispatch → s.rxValid = true →
    ∃ t m, step s = .next t ∧ t.handed = s.handed ++ [m] ∧ m.id = s.rxId ∧ m.len = s.rxLen ∧ m.ck = s.rxCk ∧
      m.payload = (List.range s.rxLen.toNat).map (s.byteAt .pl) ∧
      t = { s with turns := ts, handed := t.handed, pollPhase := .evaluating }) ∧
  (∀ (s : State) (ts : List Turn) (es : List EvalAction), s.turns = .consumer :: ts → s.encBusy = false →
    s.pulseLeft = 0 → s.pollPhase = .evaluating →
    (∀ id payload, s.evaluator = .send id payload :: es →
      ∃ t, exec (.txSend id payload) { s with turns := ts, evaluator := es } = .next t ∧ step s = .next t ∧
        t.pollPhase = .evaluating ∧ t.evaluator = es) ∧
    (∀ id, s.evaluator = .sendEmpty id :: es →
      ∃ t, exec (.txSendEmpty id) { s with turns := ts, evaluator := es } = .next t ∧ step s = .next t ∧
        t.pollPhase = .evaluating ∧ t.evaluator = es) ∧
    (s.evaluator = .unimplemented :: es →
      step s = .next { s with
        turns := ts, evaluator := es, events := s.events ++ [.unimplemented]
        pulses := s.pulses ++ [⟨.error, 40000⟩], pulseLeft := if s.params.pulseBlocks then 40000 else 0
        pollPhase := .idle }) ∧
    (s.evaluator = .handled :: es →
      step s = .next { s with turns := ts, evaluator := es, pollPhase := .idle }))

/-! Whole-machine rules. -/

/-- 10_state.md R40 and R41: `Q_IN` is written only by `Q_PUSH` and `RESET`, `Q_OUT` only by `Q_POP`, the `DEC_STEP` that
contains it, and `RESET`; nothing but these changes `Q_COUNT` (R42). Under `UsbDirect` there is no P (00_scope.md R18), and
no transition but `RESET` writes `Q_IN` or `QB`, or sets `STATUS.Q_OVF` (R44). -/
def Obligations.QueueRegistersHaveTheirWriters : Prop :=
  (∀ (i : Instr) (s t : State), exec i s = .next t →
    (t.qIn ≠ s.qIn → i = .reset ∨ ∃ x, i = .qPush x) ∧
    (t.qOut ≠ s.qOut → i = .reset ∨ i = .qPop ∨ ∃ tick, i = .decStep tick) ∧
    (t.qCount ≠ s.qCount → i = .reset ∨ (∃ x, i = .qPush x) ∨ i = .qPop ∨ ∃ tick, i = .decStep tick)) ∧
  (∀ s t : State, s.cfgTransport = .usbDirect → step s = .next t → t.epoch = s.epoch →
    t.qIn = s.qIn ∧ t.qb = s.qb ∧ (t.qOvf = true → s.qOvf = true))

/-- 10_state.md R31 to R33 and 20_memory.md R71: the received message is written only by `DEC_STEP`, its byte actions, and
`RESET`. -/
def Obligations.OnlyTheDecoderWritesTheMessage : Prop :=
  ∀ (i : Instr) (s t : State), exec i s = .next t → i ≠ .reset → (∀ tick, i ≠ .decStep tick) → actionState i = none →
    t.rxId = s.rxId ∧ t.rxLen = s.rxLen ∧ t.rxCk = s.rxCk ∧ t.remaining = s.remaining ∧ t.tMark = s.tMark ∧
    SameBytesBut .pl (fun _ => False) s t

/-- 10_state.md R44 and 00_scope.md R12: no transition changes a parameter, and `CFG.TRANSPORT` changes only at a
`RESET`, which copies the parameter. -/
def Obligations.TransportIsFixedBetweenResets : Prop :=
  ∀ s t : State, step s = .next t → t.params = s.params ∧
    (t.cfgTransport = s.cfgTransport ∨ (t.epoch = s.epoch + 1 ∧ t.cfgTransport = s.params.transport))

/-- Every transition adds at most one entry to each record of what happened and takes none back. For the decoder's events in
one `DEC_STEP` that is 60_exceptions.md R259; for every other transition it rests on the model's own records and on what it
makes one transition (logs 10, 11, 12 and 19). That nothing sent is taken back is 70_reset_and_hazards.md R280 and 10_state.md
R49 for `RESET`. -/
def Obligations.HistoryOnlyGrows : Prop :=
  ∀ s t : State, step s = .next t →
    (∃ new, t.events = s.events ++ new ∧ new.length ≤ 1) ∧ (∃ new, t.sent = s.sent ++ new ∧ new.length ≤ 1) ∧
    (∃ new, t.pulses = s.pulses ++ new ∧ new.length ≤ 1) ∧ (∃ new, t.handed = s.handed ++ new ∧ new.length ≤ 1)
end

