-- ==== Sys2Proof/Laws/Bytes.lean ====
section
/-! SUPPORT. A 16-bit value and its two bytes (30_encoding.md R103), little-endian byte strings,
      the length of a frame. -/

namespace Sys2Proof.Machine

theorem joinBytes_toNat (low high : Byte) : (joinBytes low high).toNat = low.toNat + 256 * high.toNat := by
  have h : (joinBytes low high).toNat = high.toNat <<< 8 ||| low.toNat := BitVec.toNat_append high low
  have := low.isLt
  rw [h, ← Nat.shiftLeft_add_eq_or_of_lt this, Nat.shiftLeft_eq]; omega

theorem lowByte_toNat (v : Word16) : (lowByte v).toNat = v.toNat % 256 := by
  simp [lowByte]

theorem highByte_toNat (v : Word16) : (highByte v).toNat = v.toNat / 256 := by
  have := v.isLt
  simp [highByte, Nat.shiftRight_eq_div_pow]; omega

@[simp] theorem lowByte_joinBytes (low high : Byte) : lowByte (joinBytes low high) = low := by
  apply BitVec.eq_of_toNat_eq
  have := low.isLt
  rw [lowByte_toNat, joinBytes_toNat]; omega

@[simp] theorem highByte_joinBytes (low high : Byte) : highByte (joinBytes low high) = high := by
  apply BitVec.eq_of_toNat_eq
  have := low.isLt
  rw [highByte_toNat, joinBytes_toNat]; omega

@[simp] theorem joinBytes_split (v : Word16) : joinBytes (lowByte v) (highByte v) = v := by
  apply BitVec.eq_of_toNat_eq
  rw [joinBytes_toNat, lowByte_toNat, highByte_toNat]; omega

@[simp] theorem withHighByte_withLowByte (v : Word16) (a b : Byte) :
    withHighByte (withLowByte v a) b = joinBytes a b := by simp [withHighByte, withLowByte]

@[simp] theorem leBytes_length (n v : Nat) : (leBytes n v).length = n := by
  induction n generalizing v with
  | zero => rfl
  | succ n ih => simp [leBytes, ih]

theorem leValue_leBytes (n v : Nat) (h : v < 256 ^ n) : leValue (leBytes n v) = v := by
  induction n generalizing v with
  | zero => simp [leBytes, leValue] at *; omega
  | succ n ih =>
    have h2 : v / 256 < 256 ^ n := by rw [Nat.div_lt_iff_lt_mul (by decide)]; omega
    simp [leBytes, leValue, ih _ h2]; omega

theorem lenField_toNat (payload : List Byte) (h : payload.length < 65536) :
    (lenField payload).toNat = payload.length := by simp [lenField]; omega

@[simp] theorem headerBytes_length (id len : Word16) : (headerBytes id len).length = 4 := rfl

@[simp] theorem frameBytes_length (s0 s1 : Byte) (id : Word16) (payload : List Byte) (ck : Word16) :
    (frameBytes s0 s1 id payload ck).length = payload.length + 8 := by
  simp [frameBytes]; omega

end Sys2Proof.Machine
end

