-- ==== Sys2Proof/Laws/Decode.lean ====
section
/-! SUPPORT. One law per operand reader: what it reads back from its encoding, and all it can answer. -/

namespace Sys2Proof

open Sys2Proof.Machine

@[simp] theorem thenRead_ok {α β : Type} (a : α) (rest : List Byte) (k : α → List Byte → Parsed β) :
    thenRead (.ok (a, rest)) k = k a rest := rfl

theorem thenRead_eq_ok {α β : Type} {r : Parsed α} {k : α → List Byte → Parsed β} {b : β} {out : List Byte}
    (h : thenRead r k = .ok (b, out)) : ∃ a rest, r = .ok (a, rest) ∧ k a rest = .ok (b, out) := by
  unfold thenRead at h
  split at h
  · cases h
  · exact ⟨_, _, rfl, h⟩

/-! What each reader reads back. -/

@[simp] theorem readByte_cons (b : Byte) (rest : List Byte) : readByte (b :: rest) = .ok (b, rest) := rfl

theorem readBytes_append (l rest : List Byte) : readBytes l.length (l ++ rest) = .ok (l, rest) := by
  simp [readBytes]

@[simp] theorem readWord16_encode (v : Word16) (rest : List Byte) :
    readWord16 (encodeWord16 v ++ rest) = .ok (v, rest) := by
  simp [encodeWord16, readWord16]

theorem readTick_encode (p : Params) (tick : Nat) (rest : List Byte) (h : tickFits p tick = true) :
    readTick p (encodeTick p tick ++ rest) = .ok (tick, rest) := by
  have hlt : tick < 256 ^ tickBytes p := by
    refine Nat.lt_of_lt_of_le (of_decide_eq_true h) ?_
    rw [show 256 = 2 ^ 8 from rfl, ← Nat.pow_mul]
    exact Nat.pow_le_pow_right (by decide) (by unfold tickBytes; omega)
  have hr : readBytes (tickBytes p) (encodeTick p tick ++ rest) = .ok (encodeTick p tick, rest) := by
    simpa [encodeTick] using readBytes_append (leBytes (tickBytes p) tick) rest
  rw [readTick, hr, thenRead_ok, encodeTick, leValue_leBytes _ _ hlt, if_pos h]

theorem readPayload_encode (payload rest : List Byte) (h : payloadFits payload = true) :
    readPayload (encodePayload payload ++ rest) = .ok (payload, rest) := by
  rw [readPayload, encodePayload, List.append_assoc, readWord16_encode, thenRead_ok,
    lenField_toNat _ (of_decide_eq_true h)]
  exact readBytes_append payload rest

theorem readMessage_encode (id : Word16) (payload rest : List Byte) (h : payloadFits payload = true) :
    readMessage (encodeWord16 id ++ (encodePayload payload ++ rest)) = .ok ((id, payload), rest) := by
  rw [readMessage, readWord16_encode, thenRead_ok, readPayload_encode _ _ h, thenRead_ok]

theorem readMask_encode (mask : BitVec 2) (rest : List Byte) :
    readMask (mask.setWidth 8 :: rest) = .ok (mask, rest) := by
  have h : (mask.setWidth 8).toNat = mask.toNat := by have := mask.isLt; simp only [BitVec.toNat_setWidth]; omega
  have hm : (mask.setWidth 8).setWidth 2 = mask := by
    apply BitVec.eq_of_toNat_eq; simp
  rw [readMask, readByte_cons, thenRead_ok, if_pos (by rw [h]; exact mask.isLt), hm]

theorem readSel_encode (sel : MsgSel) (rest : List Byte) : readSel (encodeSel sel :: rest) = .ok (sel, rest) := by
  cases sel <;> rfl

/-- The bytes of a frame behind its sync bytes are its message and its checksum. -/
theorem frameBytes_eq (s0 s1 : Byte) (id : Word16) (payload : List Byte) (ck : Word16) :
    frameBytes s0 s1 id payload ck =
      s0 :: s1 :: (encodeWord16 id ++ (encodePayload payload ++ encodeWord16 ck)) := by
  simp [frameBytes, headerBytes, encodeWord16, encodePayload]

/-! All that each reader can answer: it takes a prefix, and what follows does not matter. -/

/-- A reader takes a prefix of its input, its answer does not depend on what follows, and the value it reads is good. -/
abbrev Reads {α : Type} (read : List Byte → Parsed α) (good : α → Prop) : Prop :=
  ∀ bs a rest, read bs = .ok (a, rest) →
    good a ∧ ∃ used, bs = used ++ rest ∧ ∀ rest', read (used ++ rest') = .ok (a, rest')

theorem reads_pure {α : Type} (a : α) {good : α → Prop} (h : good a) : Reads (fun bs => .ok (a, bs)) good := by
  intro bs b rest hb
  cases hb
  exact ⟨h, [], rfl, fun _ => rfl⟩

theorem reads_error {α : Type} (e : DecodeError) {good : α → Prop} : Reads (fun _ => .error e) good := by
  intro bs a rest h; cases h

theorem Reads.bind {α β : Type} {read : List Byte → Parsed α} {good : α → Prop} {k : α → List Byte → Parsed β}
    {good' : β → Prop} (h : Reads read good) (hk : ∀ a, good a → Reads (k a) good') :
    Reads (fun bs => thenRead (read bs) k) good' := by
  intro bs b rest hb
  obtain ⟨a, mid, ha, hk'⟩ := thenRead_eq_ok hb
  obtain ⟨hg, u, rfl, hu⟩ := h bs a mid ha
  obtain ⟨hg', v, rfl, hv⟩ := hk a hg mid b rest hk'
  refine ⟨hg', u ++ v, by simp, fun rest' => ?_⟩
  simp only [List.append_assoc, hu, thenRead_ok, hv]

theorem readByte_reads : Reads readByte fun _ => True := by
  intro bs a rest h
  match bs, h with
  | b :: bs, h => cases h; exact ⟨trivial, [_], rfl, fun _ => rfl⟩

theorem readWord16_reads : Reads readWord16 fun _ => True := by
  intro bs a rest h
  match bs, h with
  | low :: high :: bs, h => cases h; exact ⟨trivial, [low, high], rfl, fun _ => rfl⟩

theorem readBytes_reads (n : Nat) : Reads (readBytes n) fun l => l.length = n := by
  intro bs a rest h
  unfold readBytes at h
  split at h
  next hn =>
    cases h
    have hl : (bs.take n).length = n := by simp; omega
    refine ⟨hl, bs.take n, by simp, fun rest' => ?_⟩
    simpa [hl] using readBytes_append (bs.take n) rest'
  next => cases h

theorem readTick_reads (p : Params) : Reads (readTick p) fun tick => tickFits p tick = true := by
  refine (readBytes_reads (tickBytes p)).bind fun t _ => ?_
  by_cases h : tickFits p (leValue t) = true
  · simpa [h] using reads_pure (leValue t) h
  · simpa [h] using reads_error _

theorem readPayload_reads : Reads readPayload fun payload => payloadFits payload = true := by
  refine readWord16_reads.bind fun len _ => ?_
  intro bs a rest h
  obtain ⟨hl, hu⟩ := readBytes_reads len.toNat bs a rest h
  exact ⟨by have := len.isLt; simp [payloadFits]; omega, hu⟩

theorem readMask_reads : Reads readMask fun _ => True := by
  refine readByte_reads.bind fun b _ => ?_
  by_cases h : b.toNat < 4
  · simpa [h] using reads_pure (b.setWidth 2) trivial
  · simpa [h] using reads_error _

theorem readSel_reads : Reads readSel fun _ => True := by
  refine readByte_reads.bind fun b _ => ?_
  intro bs a rest h
  split at h <;> first | cases h; done | (cases h; exact ⟨trivial, [], rfl, fun _ => by simp [*]⟩)

theorem readMessage_reads : Reads readMessage fun m => payloadFits m.2 = true := by
  refine readWord16_reads.bind fun id _ => ?_
  refine readPayload_reads.bind fun payload hp => ?_
  exact reads_pure (id, payload) hp

/-- What the operands of an `OP` row decode to is well-formed. -/
theorem decodeOp_reads (p : Params) (n : Nat) : Reads (decodeOp p n) fun i => i.wellFormed p = true := by
  unfold decodeOp
  split
  · exact reads_pure _ rfl
  · exact readByte_reads.bind fun x _ => reads_pure _ rfl
  · exact reads_pure _ rfl
  · exact reads_pure _ rfl
  · exact readMask_reads.bind fun x _ => reads_pure _ rfl
  · exact (readTick_reads p).bind fun x h => reads_pure _ h
  · exact reads_pure _ rfl
  · exact readSel_reads.bind fun x _ => readWord16_reads.bind fun _ _ => reads_pure _ rfl
  · exact reads_pure _ rfl
  · exact readByte_reads.bind fun x _ => reads_pure _ rfl
  · exact reads_pure _ rfl
  · exact readMessage_reads.bind fun x h => reads_pure _ h
  · exact reads_pure _ rfl
  · exact readMessage_reads.bind fun x h => readWord16_reads.bind fun _ _ => reads_pure _ h
  · exact readMessage_reads.bind fun x h => reads_pure _ h
  · exact readWord16_reads.bind fun x h => reads_pure _ rfl
  · exact reads_error _

/-- So for a `DSTATE` row. -/
theorem decodeAction_reads (p : Params) (n : Nat) : Reads (decodeAction p n) fun i => i.wellFormed p = true := by
  unfold decodeAction
  split
  iterate 8 exact readByte_reads.bind fun x _ => reads_pure _ rfl
  exact (readTick_reads p).bind fun x h => readByte_reads.bind fun _ _ => reads_pure _ h

/-- So for the `WIRE` row. -/
theorem decodeFrame_reads (p : Params) : Reads (decodeFrame p) fun i => i.wellFormed p = true := by
  unfold decodeFrame
  refine readByte_reads.bind fun x _ => readByte_reads.bind fun y _ => ?_
  by_cases h : x = p.sync0 ∧ y = p.sync1
  · simpa [h] using readMessage_reads.bind fun x h => readWord16_reads.bind fun _ _ => reads_pure _ h
  · simpa only [h, if_false] using reads_error _

end Sys2Proof
end

