-- ==== Sys2Proof/Laws/Memory.lean ====
section
/-! SUPPORT. The laws of a byte memory: read after write, and the canonical form is kept. -/

namespace Sys2Proof.Machine

theorem Mem.get?_set_same (m : Mem) (k : Nat) (v : Byte) : Mem.get? (Mem.set m k v) k = some v := by
  induction m with
  | nil => simp [Mem.set, Mem.get?]
  | cons c m ih =>
    obtain ⟨a, w⟩ := c
    simp only [Mem.set]
    split
    · simp [Mem.get?]
    · split
      · simp [Mem.get?]
      · simp [Mem.get?, ih]; omega

theorem Mem.get?_set_ne (m : Mem) (k j : Nat) (v : Byte) (h : j ≠ k) :
    Mem.get? (Mem.set m k v) j = Mem.get? m j := by
  induction m with
  | nil => simp [Mem.set, Mem.get?]; omega
  | cons c m ih =>
    obtain ⟨a, w⟩ := c
    simp only [Mem.set]
    split
    · simp [Mem.get?]; omega
    · split
      · simp only [Mem.get?]; split <;> split <;> first | rfl | omega
      · simp [Mem.get?, ih]

/-- A store adds the address it stores to, and no other. -/
theorem Mem.mem_set {m : Mem} {k : Nat} {v : Byte} {c : Host.Cell} (h : c ∈ Mem.set m k v) :
    c = (k, v) ∨ c ∈ m := by
  induction m with
  | nil => simpa [Mem.set] using h
  | cons d m ih =>
    obtain ⟨a, w⟩ := d
    simp only [Mem.set] at h
    split at h
    · simpa using h
    · split at h
      · rcases List.mem_cons.mp h with h | h <;> simp [h]
      · rcases List.mem_cons.mp h with h | h
        · simp [h]
        · rcases ih h with h | h <;> simp [h]

theorem Mem.wf_set {m : Mem} (hm : Mem.wf m) (k : Nat) (v : Byte) : Mem.wf (Mem.set m k v) := by
  induction m with
  | nil => simp [Mem.set, Mem.wf]
  | cons c m ih =>
    obtain ⟨a, w⟩ := c
    obtain ⟨hlt, hm⟩ := List.pairwise_cons.mp hm
    simp only [Mem.set]
    split
    next h =>
      refine List.pairwise_cons.mpr ⟨fun d hd => ?_, List.pairwise_cons.mpr ⟨hlt, hm⟩⟩
      rcases List.mem_cons.mp hd with rfl | hd
      · exact h
      · exact h.trans (hlt d hd)
    next h =>
      split
      next hk => exact List.pairwise_cons.mpr ⟨fun d hd => hk ▸ hlt d hd, hm⟩
      next hk =>
        refine List.pairwise_cons.mpr ⟨fun d hd => ?_, ih hm⟩
        rcases Mem.mem_set hd with rfl | hd
        · show a < k; omega
        · exact hlt d hd

theorem Mem.ofBytesFrom_map_fst (k : Nat) (bs : List Byte) :
    (Mem.ofBytesFrom k bs).map Prod.fst = List.range' k bs.length := by
  induction bs generalizing k with
  | nil => rfl
  | cons b bs ih => simp [Mem.ofBytesFrom, ih, List.range'_succ]

theorem Mem.ofBytes_map_fst (bs : List Byte) : (Mem.ofBytes bs).map Prod.fst = List.range bs.length := by
  simp [Mem.ofBytes, Mem.ofBytesFrom_map_fst, List.range_eq_range']

theorem Mem.ofBytes_length (bs : List Byte) : (Mem.ofBytes bs).length = bs.length := by
  simpa using congrArg List.length (Mem.ofBytes_map_fst bs)

theorem Mem.wf_iff_map_fst (m : Mem) : Mem.wf m ↔ (m.map Prod.fst).Pairwise (· < ·) := by
  simp [Mem.wf, List.pairwise_map]

theorem Mem.wf_ofBytes (bs : List Byte) : Mem.wf (Mem.ofBytes bs) := by
  rw [Mem.wf_iff_map_fst, Mem.ofBytes_map_fst]; exact List.pairwise_lt_range

theorem Mem.get?_ofBytesFrom (k j : Nat) (bs : List Byte) :
    Mem.get? (Mem.ofBytesFrom k bs) (k + j) = bs[j]? := by
  induction bs generalizing k j with
  | nil => rfl
  | cons b bs ih =>
    cases j with
    | zero => simp [Mem.ofBytesFrom, Mem.get?]
    | succ j =>
      have := ih (k + 1) j
      simp only [Mem.ofBytesFrom, Mem.get?]
      rw [if_neg (by omega), show k + (j + 1) = k + 1 + j by omega, this]
      simp

theorem Mem.get?_ofBytes (bs : List Byte) (j : Nat) : Mem.get? (Mem.ofBytes bs) j = bs[j]? := by
  simpa [Mem.ofBytes] using Mem.get?_ofBytesFrom 0 j bs

/-- All a write to `PL` can do. -/
theorem writePl_cases {a : Nat} {v : Byte} {s t : State} (h : writePl a v s = some t) :
    a < s.params.payloadCap ∧ t = { s with pl := Mem.set s.pl a v } := by
  unfold writePl at h
  split at h
  · exact ⟨‹_›, (Option.some.inj h).symm⟩
  · cases h

/-- All a write to `QB` can do. -/
theorem writeQb_cases {a : Nat} {v : Byte} {s t : State} (h : writeQb a v s = some t) :
    a < s.params.queueCap ∧ t = { s with qb := Mem.set s.qb a v } := by
  unfold writeQb at h
  split at h
  · exact ⟨‹_›, (Option.some.inj h).symm⟩
  · cases h

theorem writePl_ok {a : Nat} {s : State} (v : Byte) (h : a < s.params.payloadCap) :
    writePl a v s = some { s with pl := Mem.set s.pl a v } := if_pos h

theorem writeQb_ok {a : Nat} {s : State} (v : Byte) (h : a < s.params.queueCap) :
    writeQb a v s = some { s with qb := Mem.set s.qb a v } := if_pos h

/-- Each of the three memories is in canonical form. -/
abbrev MemoriesWf (s : State) : Prop := Mem.wf s.pl ∧ Mem.wf s.qb ∧ Mem.wf s.txm

theorem writePl_wf {a : Nat} {v : Byte} {s t : State} (h : writePl a v s = some t) (hs : MemoriesWf s) :
      MemoriesWf t := by
  obtain ⟨-, rfl⟩ := writePl_cases h
  exact ⟨Mem.wf_set hs.1 a v, hs.2⟩

theorem writeQb_wf {a : Nat} {v : Byte} {s t : State} (h : writeQb a v s = some t) (hs : MemoriesWf s) :
      MemoriesWf t := by
  obtain ⟨-, rfl⟩ := writeQb_cases h
  exact ⟨hs.1, Mem.wf_set hs.2.1 a v, hs.2.2⟩

theorem resetOf_memoriesWf (p : Params) : MemoriesWf (State.resetOf p) := ⟨.nil, .nil, .nil⟩

/-- What a byte holds depends on its memory and on the number of the last reset alone. -/
theorem byteAt_congr {s t : State} {space : Space} (hm : t.mem space = s.mem space) (he : t.epoch = s.epoch) (a : Nat) :
    t.byteAt space a = s.byteAt space a := by simp [State.byteAt, hm, he]

theorem byteAt_setPl (s : State) (k a : Nat) (v : Byte) :
    { s with pl := Mem.set s.pl k v }.byteAt .pl a = if a = k then v else s.byteAt .pl a := by
  by_cases h : a = k
  · subst h; simp [State.byteAt, State.mem, Mem.get?_set_same]
  · simp [State.byteAt, State.mem, Mem.get?_set_ne _ _ _ _ h, h]

theorem byteAt_setQb (s : State) (k a : Nat) (v : Byte) :
    { s with qb := Mem.set s.qb k v }.byteAt .qb a = if a = k then v else s.byteAt .qb a := by
  by_cases h : a = k
  · subst h; simp [State.byteAt, State.mem, Mem.get?_set_same]
  · simp [State.byteAt, State.mem, Mem.get?_set_ne _ _ _ _ h, h]

end Sys2Proof.Machine
end

