-- ==== Sys2Proof/Laws/State.lean ====
section
/-! SUPPORT. One lemma per field per named update of State, each true by definition, so that no later proof unfolds a
record update. -/

namespace Sys2Proof.Machine

/-! `answer` -/

@[simp] theorem answer_params (s : State) (r : Result) : (s.answer r).params = s.params := rfl
@[simp] theorem answer_cfgTransport (s : State) (r : Result) : (s.answer r).cfgTransport = s.cfgTransport := rfl
@[simp] theorem answer_rxId (s : State) (r : Result) : (s.answer r).rxId = s.rxId := rfl
@[simp] theorem answer_rxLen (s : State) (r : Result) : (s.answer r).rxLen = s.rxLen := rfl
@[simp] theorem answer_rxCk (s : State) (r : Result) : (s.answer r).rxCk = s.rxCk := rfl
@[simp] theorem answer_rxValid (s : State) (r : Result) : (s.answer r).rxValid = s.rxValid := rfl
@[simp] theorem answer_ckA (s : State) (r : Result) : (s.answer r).ckA = s.ckA := rfl
@[simp] theorem answer_ckB (s : State) (r : Result) : (s.answer r).ckB = s.ckB := rfl
@[simp] theorem answer_dstate (s : State) (r : Result) : (s.answer r).dstate = s.dstate := rfl
@[simp] theorem answer_remaining (s : State) (r : Result) : (s.answer r).remaining = s.remaining := rfl
@[simp] theorem answer_tMark (s : State) (r : Result) : (s.answer r).tMark = s.tMark := rfl
@[simp] theorem answer_qIn (s : State) (r : Result) : (s.answer r).qIn = s.qIn := rfl
@[simp] theorem answer_qOut (s : State) (r : Result) : (s.answer r).qOut = s.qOut := rfl
@[simp] theorem answer_qCount (s : State) (r : Result) : (s.answer r).qCount = s.qCount := rfl
@[simp] theorem answer_status (s : State) (r : Result) : (s.answer r).status = s.status := rfl
@[simp] theorem answer_encBusy (s : State) (r : Result) : (s.answer r).encBusy = s.encBusy := rfl
@[simp] theorem answer_encPos (s : State) (r : Result) : (s.answer r).encPos = s.encPos := rfl
@[simp] theorem answer_txId (s : State) (r : Result) : (s.answer r).txId = s.txId := rfl
@[simp] theorem answer_txLen (s : State) (r : Result) : (s.answer r).txLen = s.txLen := rfl
@[simp] theorem answer_txCk (s : State) (r : Result) : (s.answer r).txCk = s.txCk := rfl
@[simp] theorem answer_pl (s : State) (r : Result) : (s.answer r).pl = s.pl := rfl
@[simp] theorem answer_qb (s : State) (r : Result) : (s.answer r).qb = s.qb := rfl
@[simp] theorem answer_txm (s : State) (r : Result) : (s.answer r).txm = s.txm := rfl
@[simp] theorem answer_result (s : State) (r : Result) : (s.answer r).result = r := rfl
@[simp] theorem answer_events (s : State) (r : Result) : (s.answer r).events = s.events := rfl
@[simp] theorem answer_sent (s : State) (r : Result) : (s.answer r).sent = s.sent := rfl
@[simp] theorem answer_pulses (s : State) (r : Result) : (s.answer r).pulses = s.pulses := rfl
@[simp] theorem answer_handed (s : State) (r : Result) : (s.answer r).handed = s.handed := rfl
@[simp] theorem answer_line (s : State) (r : Result) : (s.answer r).line = s.line := rfl
@[simp] theorem answer_pollPhase (s : State) (r : Result) : (s.answer r).pollPhase = s.pollPhase := rfl
@[simp] theorem answer_pulseLeft (s : State) (r : Result) : (s.answer r).pulseLeft = s.pulseLeft := rfl
@[simp] theorem answer_evaluator (s : State) (r : Result) : (s.answer r).evaluator = s.evaluator := rfl
@[simp] theorem answer_requests (s : State) (r : Result) : (s.answer r).requests = s.requests := rfl
@[simp] theorem answer_turns (s : State) (r : Result) : (s.answer r).turns = s.turns := rfl
@[simp] theorem answer_epoch (s : State) (r : Result) : (s.answer r).epoch = s.epoch := rfl
@[simp] theorem answer_draws (s : State) (r : Result) : (s.answer r).draws = s.draws := rfl

/-! `afterDraw` -/

@[simp] theorem afterDraw_params (s : State) : (s.afterDraw).params = s.params := rfl
@[simp] theorem afterDraw_cfgTransport (s : State) : (s.afterDraw).cfgTransport = s.cfgTransport := rfl
@[simp] theorem afterDraw_rxId (s : State) : (s.afterDraw).rxId = s.rxId := rfl
@[simp] theorem afterDraw_rxLen (s : State) : (s.afterDraw).rxLen = s.rxLen := rfl
@[simp] theorem afterDraw_rxCk (s : State) : (s.afterDraw).rxCk = s.rxCk := rfl
@[simp] theorem afterDraw_rxValid (s : State) : (s.afterDraw).rxValid = s.rxValid := rfl
@[simp] theorem afterDraw_ckA (s : State) : (s.afterDraw).ckA = s.ckA := rfl
@[simp] theorem afterDraw_ckB (s : State) : (s.afterDraw).ckB = s.ckB := rfl
@[simp] theorem afterDraw_dstate (s : State) : (s.afterDraw).dstate = s.dstate := rfl
@[simp] theorem afterDraw_remaining (s : State) : (s.afterDraw).remaining = s.remaining := rfl
@[simp] theorem afterDraw_tMark (s : State) : (s.afterDraw).tMark = s.tMark := rfl
@[simp] theorem afterDraw_qIn (s : State) : (s.afterDraw).qIn = s.qIn := rfl
@[simp] theorem afterDraw_qOut (s : State) : (s.afterDraw).qOut = s.qOut := rfl
@[simp] theorem afterDraw_qCount (s : State) : (s.afterDraw).qCount = s.qCount := rfl
@[simp] theorem afterDraw_status (s : State) : (s.afterDraw).status = s.status := rfl
@[simp] theorem afterDraw_encBusy (s : State) : (s.afterDraw).encBusy = s.encBusy := rfl
@[simp] theorem afterDraw_encPos (s : State) : (s.afterDraw).encPos = s.encPos := rfl
@[simp] theorem afterDraw_txId (s : State) : (s.afterDraw).txId = s.txId := rfl
@[simp] theorem afterDraw_txLen (s : State) : (s.afterDraw).txLen = s.txLen := rfl
@[simp] theorem afterDraw_txCk (s : State) : (s.afterDraw).txCk = s.txCk := rfl
@[simp] theorem afterDraw_pl (s : State) : (s.afterDraw).pl = s.pl := rfl
@[simp] theorem afterDraw_qb (s : State) : (s.afterDraw).qb = s.qb := rfl
@[simp] theorem afterDraw_txm (s : State) : (s.afterDraw).txm = s.txm := rfl
@[simp] theorem afterDraw_result (s : State) : (s.afterDraw).result = s.result := rfl
@[simp] theorem afterDraw_events (s : State) : (s.afterDraw).events = s.events := rfl
@[simp] theorem afterDraw_sent (s : State) : (s.afterDraw).sent = s.sent := rfl
@[simp] theorem afterDraw_pulses (s : State) : (s.afterDraw).pulses = s.pulses := rfl
@[simp] theorem afterDraw_handed (s : State) : (s.afterDraw).handed = s.handed := rfl
@[simp] theorem afterDraw_line (s : State) : (s.afterDraw).line = s.line := rfl
@[simp] theorem afterDraw_pollPhase (s : State) : (s.afterDraw).pollPhase = s.pollPhase := rfl
@[simp] theorem afterDraw_pulseLeft (s : State) : (s.afterDraw).pulseLeft = s.pulseLeft := rfl
@[simp] theorem afterDraw_evaluator (s : State) : (s.afterDraw).evaluator = s.evaluator := rfl
@[simp] theorem afterDraw_requests (s : State) : (s.afterDraw).requests = s.requests := rfl
@[simp] theorem afterDraw_turns (s : State) : (s.afterDraw).turns = s.turns := rfl
@[simp] theorem afterDraw_epoch (s : State) : (s.afterDraw).epoch = s.epoch := rfl
@[simp] theorem afterDraw_draws (s : State) : (s.afterDraw).draws = s.draws + 1 := rfl

/-! `abandonFrame` -/

@[simp] theorem abandonFrame_params (s : State) : (abandonFrame s).params = s.params := rfl
@[simp] theorem abandonFrame_cfgTransport (s : State) : (abandonFrame s).cfgTransport = s.cfgTransport := rfl
@[simp] theorem abandonFrame_rxId (s : State) : (abandonFrame s).rxId = s.rxId := rfl
@[simp] theorem abandonFrame_rxLen (s : State) : (abandonFrame s).rxLen = s.rxLen := rfl
@[simp] theorem abandonFrame_rxCk (s : State) : (abandonFrame s).rxCk = s.rxCk := rfl
@[simp] theorem abandonFrame_rxValid (s : State) : (abandonFrame s).rxValid = s.rxValid := rfl
@[simp] theorem abandonFrame_ckA (s : State) : (abandonFrame s).ckA = s.ckA := rfl
@[simp] theorem abandonFrame_ckB (s : State) : (abandonFrame s).ckB = s.ckB := rfl
@[simp] theorem abandonFrame_dstate (s : State) : (abandonFrame s).dstate = .awaitSync0 := rfl
@[simp] theorem abandonFrame_remaining (s : State) : (abandonFrame s).remaining = s.remaining := rfl
@[simp] theorem abandonFrame_tMark (s : State) : (abandonFrame s).tMark = s.tMark := rfl
@[simp] theorem abandonFrame_qIn (s : State) : (abandonFrame s).qIn = s.qIn := rfl
@[simp] theorem abandonFrame_qOut (s : State) : (abandonFrame s).qOut = s.qOut := rfl
@[simp] theorem abandonFrame_qCount (s : State) : (abandonFrame s).qCount = s.qCount := rfl
@[simp] theorem abandonFrame_status (s : State) : (abandonFrame s).status = s.status := rfl
@[simp] theorem abandonFrame_encBusy (s : State) : (abandonFrame s).encBusy = s.encBusy := rfl
@[simp] theorem abandonFrame_encPos (s : State) : (abandonFrame s).encPos = s.encPos := rfl
@[simp] theorem abandonFrame_txId (s : State) : (abandonFrame s).txId = s.txId := rfl
@[simp] theorem abandonFrame_txLen (s : State) : (abandonFrame s).txLen = s.txLen := rfl
@[simp] theorem abandonFrame_txCk (s : State) : (abandonFrame s).txCk = s.txCk := rfl
@[simp] theorem abandonFrame_pl (s : State) : (abandonFrame s).pl = s.pl := rfl
@[simp] theorem abandonFrame_qb (s : State) : (abandonFrame s).qb = s.qb := rfl
@[simp] theorem abandonFrame_txm (s : State) : (abandonFrame s).txm = s.txm := rfl
@[simp] theorem abandonFrame_result (s : State) : (abandonFrame s).result = s.result := rfl
@[simp] theorem abandonFrame_events (s : State) : (abandonFrame s).events = s.events := rfl
@[simp] theorem abandonFrame_sent (s : State) : (abandonFrame s).sent = s.sent := rfl
@[simp] theorem abandonFrame_pulses (s : State) : (abandonFrame s).pulses = s.pulses := rfl
@[simp] theorem abandonFrame_handed (s : State) : (abandonFrame s).handed = s.handed := rfl
@[simp] theorem abandonFrame_line (s : State) : (abandonFrame s).line = s.line := rfl
@[simp] theorem abandonFrame_pollPhase (s : State) : (abandonFrame s).pollPhase = s.pollPhase := rfl
@[simp] theorem abandonFrame_pulseLeft (s : State) : (abandonFrame s).pulseLeft = s.pulseLeft := rfl
@[simp] theorem abandonFrame_evaluator (s : State) : (abandonFrame s).evaluator = s.evaluator := rfl
@[simp] theorem abandonFrame_requests (s : State) : (abandonFrame s).requests = s.requests := rfl
@[simp] theorem abandonFrame_turns (s : State) : (abandonFrame s).turns = s.turns := rfl
@[simp] theorem abandonFrame_epoch (s : State) : (abandonFrame s).epoch = s.epoch := rfl
@[simp] theorem abandonFrame_draws (s : State) : (abandonFrame s).draws = s.draws := rfl

/-! `resetDecoder` -/

@[simp] theorem resetDecoder_params (s : State) : (resetDecoder s).params = s.params := rfl
@[simp] theorem resetDecoder_cfgTransport (s : State) : (resetDecoder s).cfgTransport = s.cfgTransport := rfl
@[simp] theorem resetDecoder_rxId (s : State) : (resetDecoder s).rxId = s.rxId := rfl
@[simp] theorem resetDecoder_rxLen (s : State) : (resetDecoder s).rxLen = s.rxLen := rfl
@[simp] theorem resetDecoder_rxCk (s : State) : (resetDecoder s).rxCk = s.rxCk := rfl
@[simp] theorem resetDecoder_rxValid (s : State) : (resetDecoder s).rxValid = (s.rxValid && !s.dstate.pastSync) := rfl
@[simp] theorem resetDecoder_ckA (s : State) : (resetDecoder s).ckA = s.ckA := rfl
@[simp] theorem resetDecoder_ckB (s : State) : (resetDecoder s).ckB = s.ckB := rfl
@[simp] theorem resetDecoder_dstate (s : State) : (resetDecoder s).dstate = .awaitSync0 := rfl
@[simp] theorem resetDecoder_remaining (s : State) : (resetDecoder s).remaining = s.remaining := rfl
@[simp] theorem resetDecoder_tMark (s : State) : (resetDecoder s).tMark = s.tMark := rfl
@[simp] theorem resetDecoder_qIn (s : State) : (resetDecoder s).qIn = s.qIn := rfl
@[simp] theorem resetDecoder_qOut (s : State) : (resetDecoder s).qOut = s.qOut := rfl
@[simp] theorem resetDecoder_qCount (s : State) : (resetDecoder s).qCount = s.qCount := rfl
@[simp] theorem resetDecoder_status (s : State) : (resetDecoder s).status = s.status := rfl
@[simp] theorem resetDecoder_encBusy (s : State) : (resetDecoder s).encBusy = s.encBusy := rfl
@[simp] theorem resetDecoder_encPos (s : State) : (resetDecoder s).encPos = s.encPos := rfl
@[simp] theorem resetDecoder_txId (s : State) : (resetDecoder s).txId = s.txId := rfl
@[simp] theorem resetDecoder_txLen (s : State) : (resetDecoder s).txLen = s.txLen := rfl
@[simp] theorem resetDecoder_txCk (s : State) : (resetDecoder s).txCk = s.txCk := rfl
@[simp] theorem resetDecoder_pl (s : State) : (resetDecoder s).pl = s.pl := rfl
@[simp] theorem resetDecoder_qb (s : State) : (resetDecoder s).qb = s.qb := rfl
@[simp] theorem resetDecoder_txm (s : State) : (resetDecoder s).txm = s.txm := rfl
@[simp] theorem resetDecoder_result (s : State) : (resetDecoder s).result = s.result := rfl
@[simp] theorem resetDecoder_events (s : State) : (resetDecoder s).events = s.events := rfl
@[simp] theorem resetDecoder_sent (s : State) : (resetDecoder s).sent = s.sent := rfl
@[simp] theorem resetDecoder_pulses (s : State) : (resetDecoder s).pulses = s.pulses := rfl
@[simp] theorem resetDecoder_handed (s : State) : (resetDecoder s).handed = s.handed := rfl
@[simp] theorem resetDecoder_line (s : State) : (resetDecoder s).line = s.line := rfl
@[simp] theorem resetDecoder_pollPhase (s : State) : (resetDecoder s).pollPhase = s.pollPhase := rfl
@[simp] theorem resetDecoder_pulseLeft (s : State) : (resetDecoder s).pulseLeft = s.pulseLeft := rfl
@[simp] theorem resetDecoder_evaluator (s : State) : (resetDecoder s).evaluator = s.evaluator := rfl
@[simp] theorem resetDecoder_requests (s : State) : (resetDecoder s).requests = s.requests := rfl
@[simp] theorem resetDecoder_turns (s : State) : (resetDecoder s).turns = s.turns := rfl
@[simp] theorem resetDecoder_epoch (s : State) : (resetDecoder s).epoch = s.epoch := rfl
@[simp] theorem resetDecoder_draws (s : State) : (resetDecoder s).draws = s.draws := rfl

/-! `writeByte` -/

@[simp] theorem writeByte_params (b : Byte) (s : State) : (writeByte b s).params = s.params := rfl
@[simp] theorem writeByte_cfgTransport (b : Byte) (s : State) : (writeByte b s).cfgTransport = s.cfgTransport := rfl
@[simp] theorem writeByte_rxId (b : Byte) (s : State) : (writeByte b s).rxId = s.rxId := rfl
@[simp] theorem writeByte_rxLen (b : Byte) (s : State) : (writeByte b s).rxLen = s.rxLen := rfl
@[simp] theorem writeByte_rxCk (b : Byte) (s : State) : (writeByte b s).rxCk = s.rxCk := rfl
@[simp] theorem writeByte_rxValid (b : Byte) (s : State) : (writeByte b s).rxValid = s.rxValid := rfl
@[simp] theorem writeByte_ckA (b : Byte) (s : State) : (writeByte b s).ckA = s.ckA := rfl
@[simp] theorem writeByte_ckB (b : Byte) (s : State) : (writeByte b s).ckB = s.ckB := rfl
@[simp] theorem writeByte_dstate (b : Byte) (s : State) : (writeByte b s).dstate = s.dstate := rfl
@[simp] theorem writeByte_remaining (b : Byte) (s : State) : (writeByte b s).remaining = s.remaining := rfl
@[simp] theorem writeByte_tMark (b : Byte) (s : State) : (writeByte b s).tMark = s.tMark := rfl
@[simp] theorem writeByte_qIn (b : Byte) (s : State) : (writeByte b s).qIn = s.qIn := rfl
@[simp] theorem writeByte_qOut (b : Byte) (s : State) : (writeByte b s).qOut = s.qOut := rfl
@[simp] theorem writeByte_qCount (b : Byte) (s : State) : (writeByte b s).qCount = s.qCount := rfl
@[simp] theorem writeByte_status (b : Byte) (s : State) : (writeByte b s).status = s.status := rfl
@[simp] theorem writeByte_encBusy (b : Byte) (s : State) : (writeByte b s).encBusy = s.encBusy := rfl
@[simp] theorem writeByte_encPos (b : Byte) (s : State) : (writeByte b s).encPos = s.encPos := rfl
@[simp] theorem writeByte_txId (b : Byte) (s : State) : (writeByte b s).txId = s.txId := rfl
@[simp] theorem writeByte_txLen (b : Byte) (s : State) : (writeByte b s).txLen = s.txLen := rfl
@[simp] theorem writeByte_txCk (b : Byte) (s : State) : (writeByte b s).txCk = s.txCk := rfl
@[simp] theorem writeByte_pl (b : Byte) (s : State) : (writeByte b s).pl = s.pl := rfl
@[simp] theorem writeByte_qb (b : Byte) (s : State) : (writeByte b s).qb = s.qb := rfl
@[simp] theorem writeByte_txm (b : Byte) (s : State) : (writeByte b s).txm = s.txm := rfl
@[simp] theorem writeByte_result (b : Byte) (s : State) : (writeByte b s).result = s.result := rfl
@[simp] theorem writeByte_events (b : Byte) (s : State) : (writeByte b s).events = s.events := rfl
@[simp] theorem writeByte_sent (b : Byte) (s : State) : (writeByte b s).sent = s.sent ++ [b] := rfl
@[simp] theorem writeByte_pulses (b : Byte) (s : State) : (writeByte b s).pulses = s.pulses := rfl
@[simp] theorem writeByte_handed (b : Byte) (s : State) : (writeByte b s).handed = s.handed := rfl
@[simp] theorem writeByte_line (b : Byte) (s : State) : (writeByte b s).line = s.line := rfl
@[simp] theorem writeByte_pollPhase (b : Byte) (s : State) : (writeByte b s).pollPhase = s.pollPhase := rfl
@[simp] theorem writeByte_pulseLeft (b : Byte) (s : State) : (writeByte b s).pulseLeft = s.pulseLeft := rfl
@[simp] theorem writeByte_evaluator (b : Byte) (s : State) : (writeByte b s).evaluator = s.evaluator := rfl
@[simp] theorem writeByte_requests (b : Byte) (s : State) : (writeByte b s).requests = s.requests := rfl
@[simp] theorem writeByte_turns (b : Byte) (s : State) : (writeByte b s).turns = s.turns := rfl
@[simp] theorem writeByte_epoch (b : Byte) (s : State) : (writeByte b s).epoch = s.epoch := rfl
@[simp] theorem writeByte_draws (b : Byte) (s : State) : (writeByte b s).draws = s.draws := rfl

/-! `deliver` -/

@[simp] theorem deliver_params (bytes : List Byte) (s : State) : (deliver bytes s).params = s.params := rfl
@[simp] theorem deliver_cfgTransport (bytes : List Byte) (s : State) :
      (deliver bytes s).cfgTransport = s.cfgTransport := rfl
@[simp] theorem deliver_rxId (bytes : List Byte) (s : State) : (deliver bytes s).rxId = s.rxId := rfl
@[simp] theorem deliver_rxLen (bytes : List Byte) (s : State) : (deliver bytes s).rxLen = s.rxLen := rfl
@[simp] theorem deliver_rxCk (bytes : List Byte) (s : State) : (deliver bytes s).rxCk = s.rxCk := rfl
@[simp] theorem deliver_rxValid (bytes : List Byte) (s : State) : (deliver bytes s).rxValid = s.rxValid := rfl
@[simp] theorem deliver_ckA (bytes : List Byte) (s : State) : (deliver bytes s).ckA = s.ckA := rfl
@[simp] theorem deliver_ckB (bytes : List Byte) (s : State) : (deliver bytes s).ckB = s.ckB := rfl
@[simp] theorem deliver_dstate (bytes : List Byte) (s : State) : (deliver bytes s).dstate = s.dstate := rfl
@[simp] theorem deliver_remaining (bytes : List Byte) (s : State) : (deliver bytes s).remaining = s.remaining := rfl
@[simp] theorem deliver_tMark (bytes : List Byte) (s : State) : (deliver bytes s).tMark = s.tMark := rfl
@[simp] theorem deliver_qIn (bytes : List Byte) (s : State) : (deliver bytes s).qIn = s.qIn := rfl
@[simp] theorem deliver_qOut (bytes : List Byte) (s : State) : (deliver bytes s).qOut = s.qOut := rfl
@[simp] theorem deliver_qCount (bytes : List Byte) (s : State) : (deliver bytes s).qCount = s.qCount := rfl
@[simp] theorem deliver_status (bytes : List Byte) (s : State) : (deliver bytes s).status = s.status := rfl
@[simp] theorem deliver_encBusy (bytes : List Byte) (s : State) : (deliver bytes s).encBusy = s.encBusy := rfl
@[simp] theorem deliver_encPos (bytes : List Byte) (s : State) : (deliver bytes s).encPos = s.encPos := rfl
@[simp] theorem deliver_txId (bytes : List Byte) (s : State) : (deliver bytes s).txId = s.txId := rfl
@[simp] theorem deliver_txLen (bytes : List Byte) (s : State) : (deliver bytes s).txLen = s.txLen := rfl
@[simp] theorem deliver_txCk (bytes : List Byte) (s : State) : (deliver bytes s).txCk = s.txCk := rfl
@[simp] theorem deliver_pl (bytes : List Byte) (s : State) : (deliver bytes s).pl = s.pl := rfl
@[simp] theorem deliver_qb (bytes : List Byte) (s : State) : (deliver bytes s).qb = s.qb := rfl
@[simp] theorem deliver_txm (bytes : List Byte) (s : State) : (deliver bytes s).txm = s.txm := rfl
@[simp] theorem deliver_result (bytes : List Byte) (s : State) : (deliver bytes s).result = s.result := rfl
@[simp] theorem deliver_events (bytes : List Byte) (s : State) : (deliver bytes s).events = s.events := rfl
@[simp] theorem deliver_sent (bytes : List Byte) (s : State) : (deliver bytes s).sent = s.sent := rfl
@[simp] theorem deliver_pulses (bytes : List Byte) (s : State) : (deliver bytes s).pulses = s.pulses := rfl
@[simp] theorem deliver_handed (bytes : List Byte) (s : State) : (deliver bytes s).handed = s.handed := rfl
@[simp] theorem deliver_line (bytes : List Byte) (s : State) : (deliver bytes s).line = s.line ++ bytes := rfl
@[simp] theorem deliver_pollPhase (bytes : List Byte) (s : State) : (deliver bytes s).pollPhase = s.pollPhase := rfl
@[simp] theorem deliver_pulseLeft (bytes : List Byte) (s : State) : (deliver bytes s).pulseLeft = s.pulseLeft := rfl
@[simp] theorem deliver_evaluator (bytes : List Byte) (s : State) : (deliver bytes s).evaluator = s.evaluator := rfl
@[simp] theorem deliver_requests (bytes : List Byte) (s : State) : (deliver bytes s).requests = s.requests := rfl
@[simp] theorem deliver_turns (bytes : List Byte) (s : State) : (deliver bytes s).turns = s.turns := rfl
@[simp] theorem deliver_epoch (bytes : List Byte) (s : State) : (deliver bytes s).epoch = s.epoch := rfl
@[simp] theorem deliver_draws (bytes : List Byte) (s : State) : (deliver bytes s).draws = s.draws := rfl

/-! `pulse` -/

@[simp] theorem pulse_params (w : Indicator) (d : Nat) (s : State) : (pulse w d s).params = s.params := rfl
@[simp] theorem pulse_cfgTransport (w : Indicator) (d : Nat) (s : State) :
      (pulse w d s).cfgTransport = s.cfgTransport := rfl
@[simp] theorem pulse_rxId (w : Indicator) (d : Nat) (s : State) : (pulse w d s).rxId = s.rxId := rfl
@[simp] theorem pulse_rxLen (w : Indicator) (d : Nat) (s : State) : (pulse w d s).rxLen = s.rxLen := rfl
@[simp] theorem pulse_rxCk (w : Indicator) (d : Nat) (s : State) : (pulse w d s).rxCk = s.rxCk := rfl
@[simp] theorem pulse_rxValid (w : Indicator) (d : Nat) (s : State) : (pulse w d s).rxValid = s.rxValid := rfl
@[simp] theorem pulse_ckA (w : Indicator) (d : Nat) (s : State) : (pulse w d s).ckA = s.ckA := rfl
@[simp] theorem pulse_ckB (w : Indicator) (d : Nat) (s : State) : (pulse w d s).ckB = s.ckB := rfl
@[simp] theorem pulse_dstate (w : Indicator) (d : Nat) (s : State) : (pulse w d s).dstate = s.dstate := rfl
@[simp] theorem pulse_remaining (w : Indicator) (d : Nat) (s : State) : (pulse w d s).remaining = s.remaining := rfl
@[simp] theorem pulse_tMark (w : Indicator) (d : Nat) (s : State) : (pulse w d s).tMark = s.tMark := rfl
@[simp] theorem pulse_qIn (w : Indicator) (d : Nat) (s : State) : (pulse w d s).qIn = s.qIn := rfl
@[simp] theorem pulse_qOut (w : Indicator) (d : Nat) (s : State) : (pulse w d s).qOut = s.qOut := rfl
@[simp] theorem pulse_qCount (w : Indicator) (d : Nat) (s : State) : (pulse w d s).qCount = s.qCount := rfl
@[simp] theorem pulse_status (w : Indicator) (d : Nat) (s : State) : (pulse w d s).status = s.status := rfl
@[simp] theorem pulse_encBusy (w : Indicator) (d : Nat) (s : State) : (pulse w d s).encBusy = s.encBusy := rfl
@[simp] theorem pulse_encPos (w : Indicator) (d : Nat) (s : State) : (pulse w d s).encPos = s.encPos := rfl
@[simp] theorem pulse_txId (w : Indicator) (d : Nat) (s : State) : (pulse w d s).txId = s.txId := rfl
@[simp] theorem pulse_txLen (w : Indicator) (d : Nat) (s : State) : (pulse w d s).txLen = s.txLen := rfl
@[simp] theorem pulse_txCk (w : Indicator) (d : Nat) (s : State) : (pulse w d s).txCk = s.txCk := rfl
@[simp] theorem pulse_pl (w : Indicator) (d : Nat) (s : State) : (pulse w d s).pl = s.pl := rfl
@[simp] theorem pulse_qb (w : Indicator) (d : Nat) (s : State) : (pulse w d s).qb = s.qb := rfl
@[simp] theorem pulse_txm (w : Indicator) (d : Nat) (s : State) : (pulse w d s).txm = s.txm := rfl
@[simp] theorem pulse_result (w : Indicator) (d : Nat) (s : State) : (pulse w d s).result = s.result := rfl
@[simp] theorem pulse_events (w : Indicator) (d : Nat) (s : State) : (pulse w d s).events = s.events := rfl
@[simp] theorem pulse_sent (w : Indicator) (d : Nat) (s : State) : (pulse w d s).sent = s.sent := rfl
@[simp] theorem pulse_pulses (w : Indicator) (d : Nat) (s : State) : (pulse w d s).pulses = s.pulses ++ [⟨w, d⟩] := rfl
@[simp] theorem pulse_handed (w : Indicator) (d : Nat) (s : State) : (pulse w d s).handed = s.handed := rfl
@[simp] theorem pulse_line (w : Indicator) (d : Nat) (s : State) : (pulse w d s).line = s.line := rfl
@[simp] theorem pulse_pollPhase (w : Indicator) (d : Nat) (s : State) : (pulse w d s).pollPhase = s.pollPhase := rfl
@[simp] theorem pulse_pulseLeft (w : Indicator) (d : Nat) (s : State) :
      (pulse w d s).pulseLeft = if s.params.pulseBlocks then d else s.pulseLeft := rfl
@[simp] theorem pulse_evaluator (w : Indicator) (d : Nat) (s : State) : (pulse w d s).evaluator = s.evaluator := rfl
@[simp] theorem pulse_requests (w : Indicator) (d : Nat) (s : State) : (pulse w d s).requests = s.requests := rfl
@[simp] theorem pulse_turns (w : Indicator) (d : Nat) (s : State) : (pulse w d s).turns = s.turns := rfl
@[simp] theorem pulse_epoch (w : Indicator) (d : Nat) (s : State) : (pulse w d s).epoch = s.epoch := rfl
@[simp] theorem pulse_draws (w : Indicator) (d : Nat) (s : State) : (pulse w d s).draws = s.draws := rfl

/-! `passTimeUnit` -/

@[simp] theorem passTimeUnit_params (s : State) : (passTimeUnit s).params = s.params := rfl
@[simp] theorem passTimeUnit_cfgTransport (s : State) : (passTimeUnit s).cfgTransport = s.cfgTransport := rfl
@[simp] theorem passTimeUnit_rxId (s : State) : (passTimeUnit s).rxId = s.rxId := rfl
@[simp] theorem passTimeUnit_rxLen (s : State) : (passTimeUnit s).rxLen = s.rxLen := rfl
@[simp] theorem passTimeUnit_rxCk (s : State) : (passTimeUnit s).rxCk = s.rxCk := rfl
@[simp] theorem passTimeUnit_rxValid (s : State) : (passTimeUnit s).rxValid = s.rxValid := rfl
@[simp] theorem passTimeUnit_ckA (s : State) : (passTimeUnit s).ckA = s.ckA := rfl
@[simp] theorem passTimeUnit_ckB (s : State) : (passTimeUnit s).ckB = s.ckB := rfl
@[simp] theorem passTimeUnit_dstate (s : State) : (passTimeUnit s).dstate = s.dstate := rfl
@[simp] theorem passTimeUnit_remaining (s : State) : (passTimeUnit s).remaining = s.remaining := rfl
@[simp] theorem passTimeUnit_tMark (s : State) : (passTimeUnit s).tMark = s.tMark := rfl
@[simp] theorem passTimeUnit_qIn (s : State) : (passTimeUnit s).qIn = s.qIn := rfl
@[simp] theorem passTimeUnit_qOut (s : State) : (passTimeUnit s).qOut = s.qOut := rfl
@[simp] theorem passTimeUnit_qCount (s : State) : (passTimeUnit s).qCount = s.qCount := rfl
@[simp] theorem passTimeUnit_status (s : State) : (passTimeUnit s).status = s.status := rfl
@[simp] theorem passTimeUnit_encBusy (s : State) : (passTimeUnit s).encBusy = s.encBusy := rfl
@[simp] theorem passTimeUnit_encPos (s : State) : (passTimeUnit s).encPos = s.encPos := rfl
@[simp] theorem passTimeUnit_txId (s : State) : (passTimeUnit s).txId = s.txId := rfl
@[simp] theorem passTimeUnit_txLen (s : State) : (passTimeUnit s).txLen = s.txLen := rfl
@[simp] theorem passTimeUnit_txCk (s : State) : (passTimeUnit s).txCk = s.txCk := rfl
@[simp] theorem passTimeUnit_pl (s : State) : (passTimeUnit s).pl = s.pl := rfl
@[simp] theorem passTimeUnit_qb (s : State) : (passTimeUnit s).qb = s.qb := rfl
@[simp] theorem passTimeUnit_txm (s : State) : (passTimeUnit s).txm = s.txm := rfl
@[simp] theorem passTimeUnit_result (s : State) : (passTimeUnit s).result = s.result := rfl
@[simp] theorem passTimeUnit_events (s : State) : (passTimeUnit s).events = s.events := rfl
@[simp] theorem passTimeUnit_sent (s : State) : (passTimeUnit s).sent = s.sent := rfl
@[simp] theorem passTimeUnit_pulses (s : State) : (passTimeUnit s).pulses = s.pulses := rfl
@[simp] theorem passTimeUnit_handed (s : State) : (passTimeUnit s).handed = s.handed := rfl
@[simp] theorem passTimeUnit_line (s : State) : (passTimeUnit s).line = s.line := rfl
@[simp] theorem passTimeUnit_pollPhase (s : State) : (passTimeUnit s).pollPhase = s.pollPhase := rfl
@[simp] theorem passTimeUnit_pulseLeft (s : State) : (passTimeUnit s).pulseLeft = s.pulseLeft - 1 := rfl
@[simp] theorem passTimeUnit_evaluator (s : State) : (passTimeUnit s).evaluator = s.evaluator := rfl
@[simp] theorem passTimeUnit_requests (s : State) : (passTimeUnit s).requests = s.requests := rfl
@[simp] theorem passTimeUnit_turns (s : State) : (passTimeUnit s).turns = s.turns := rfl
@[simp] theorem passTimeUnit_epoch (s : State) : (passTimeUnit s).epoch = s.epoch := rfl
@[simp] theorem passTimeUnit_draws (s : State) : (passTimeUnit s).draws = s.draws := rfl

end Sys2Proof.Machine
end

