-- ==== Sys2Proof/Laws/Ops.lean ====
section
/-! SUPPORT. One lemma per shared operation that says once everything it can do; later proofs cite it and do not unfold the
operation. -/

namespace Sys2Proof.Machine

/-! Events (60_exceptions.md R250 to R256). -/

/-- An event changes the record of events, `STATUS` and `DSTATE`, and nothing else. -/
theorem raise_frame (e : Event) (s : State) :
    raise e s = { s with
      events := s.events ++ [e], status := (raise e s).status, dstate := (raise e s).dstate } := by cases e <;> rfl

@[simp] theorem raise_resync (s : State) :
    raise .resync s = { s with events := s.events ++ [.resync], dstate := .awaitSync0 } := rfl

@[simp] theorem raise_ckMismatch (s : State) :
    raise .ckMismatch s = { s with events := s.events ++ [.ckMismatch] } := rfl

@[simp] theorem raise_unimplemented (s : State) :
    raise .unimplemented s = { s with events := s.events ++ [.unimplemented] } := rfl

@[simp] theorem raise_qOverflow (s : State) :
    raise .qOverflow s = { s with events := s.events ++ [.qOverflow], status := setQOvf s.status } := rfl

@[simp] theorem raise_lenReject (s : State) :
    raise .lenReject s =
      { s with events := s.events ++ [.lenReject], status := setLenRej s.status, dstate := .awaitSync0 } := rfl

@[simp] theorem raise_txReject (s : State) : raise .txReject s = { s with events := s.events ++ [.txReject] } := rfl

/-! Unspecified reads. -/

theorem afterRead_eq (s : State) (known : Bool) :
    s.afterRead known = { s with draws := if known then s.draws else s.draws + 1 } := by
  cases known <;> rfl

/-! The queue and the transport's read port. -/

/-- All that `Q_POP` can do. -/
theorem queuePop_cases {s t : State} {r : Option Byte} (h : queuePop s = some (r, t)) :
    (s.qCount = 0 ∧ r = none ∧ t = s) ∨
    (s.qCount ≠ 0 ∧ s.qOut < s.params.queueCap ∧ r = some (s.byteAt .qb s.qOut) ∧
      t = { s with qOut := (s.qOut + 1) % s.params.queueCap, qCount := s.qCount - 1 }) := by
  unfold queuePop at h
  split at h
  next h0 => cases h; exact .inl ⟨h0, rfl, rfl⟩
  next h0 =>
    split at h
    · cases h
    next b hb =>
      cases h
      unfold memRead at hb
      split at hb
      next hlt => cases hb; exact .inr ⟨h0, hlt, rfl, rfl⟩
      · cases hb

theorem queuePop_empty {s : State} (h : s.qCount = 0) : queuePop s = some (none, s) := by simp [queuePop, h]

theorem queuePop_byte {s : State} (h : s.qCount ≠ 0) (ho : s.qOut < s.params.queueCap) :
    queuePop s = some (some (s.byteAt .qb s.qOut),
      { s with qOut := (s.qOut + 1) % s.params.queueCap, qCount := s.qCount - 1 }) := by
  have : s.qOut < s.size .qb := ho
  simp [queuePop, h, memRead, this]

/-- All that `TryReadByte()` can do: it moves the queue's read side, or the transport's unread bytes,
      and nothing else. -/
theorem tryReadByte_cases {s t : State} {r : Option Byte} (h : tryReadByte s = some (r, t)) :
    (r = none ∧ t = s) ∨
    (∃ b, r = some b ∧ s.cfgTransport = .serialQueued ∧ s.qCount ≠ 0 ∧ s.qOut < s.params.queueCap ∧
      b = s.byteAt .qb s.qOut ∧
      t = { s with qOut := (s.qOut + 1) % s.params.queueCap, qCount := s.qCount - 1 }) ∨
    (∃ b rest, r = some b ∧ s.cfgTransport = .usbDirect ∧ s.line = b :: rest ∧ t = { s with line := rest }) := by
  unfold tryReadByte at h
  split at h
  next hc =>
    rcases queuePop_cases h with ⟨-, hr, ht⟩ | ⟨h0, hlt, hr, ht⟩
    · exact .inl ⟨hr, ht⟩
    · exact .inr (.inl ⟨_, hr, hc, h0, hlt, rfl, ht⟩)
  next hc =>
    simp only [usbRead] at h
    split at h
    · cases h; exact .inl ⟨rfl, rfl⟩
    next b rest hl => cases h; exact .inr (.inr ⟨b, rest, rfl, hc, hl, rfl⟩)

/-- All that part 1 of `DEC_STEP` can do (41_frame_decoder.md R153). -/
theorem resyncCheck_cases (tick : Nat) (s : State) :
    (s.timedOut tick = false ∧ resyncCheck tick s = s) ∨
    (s.timedOut tick = true ∧ s.dstate ≠ .awaitSync0 ∧ s.params.resyncTicks < s.elapsed tick ∧
      resyncCheck tick s = { s with events := s.events ++ [.resync], dstate := .awaitSync0 }) := by
  unfold resyncCheck
  cases h : s.timedOut tick
  · exact .inl ⟨rfl, rfl⟩
  · refine .inr ⟨rfl, ?_, ?_, rfl⟩ <;> simp_all [State.timedOut]

/-! The checksum engine. -/

theorem ckPair_foldl (bytes : List Byte) (s : State) :
    bytes.foldl ckUpdate s = { s with
      ckA := (bytes.foldl (fun (p : Byte × Byte) x => (p.1 + x, p.2 + (p.1 + x))) (s.ckA, s.ckB)).1
      ckB := (bytes.foldl (fun (p : Byte × Byte) x => (p.1 + x, p.2 + (p.1 + x))) (s.ckA, s.ckB)).2 } := by
  induction bytes generalizing s with
  | nil => rfl
  | cons x bytes ih => rw [List.foldl_cons, ih]; rfl

/-- A checksum computation leaves its accumulators and touches nothing else (10_state.md R35). -/
theorem ckRun_eq (bytes : List Byte) (s : State) :
    ckRun bytes s = { s with ckA := (ckPair bytes).1, ckB := (ckPair bytes).2 } := by
  rw [ckRun, ckPair_foldl]; rfl

/-- The computed checksum is the pure function of 42_checksum_engine.md R194. -/
theorem ckResult_ckRun (bytes : List Byte) (s : State) : ckResult (ckRun bytes s) = ck bytes := by
  rw [ckRun_eq]; rfl

theorem ckMessage_eq (id : Word16) (payload : List Byte) (s : State) :
    ckMessage id payload s = { s with
      ckA := (ckPair (headerBytes id (lenField payload) ++ payload)).1
      ckB := (ckPair (headerBytes id (lenField payload) ++ payload)).2 } := ckRun_eq _ s

theorem ckResult_ckMessage (id : Word16) (payload : List Byte) (s : State) :
    ckResult (ckMessage id payload s) = messageCk id payload := ckResult_ckRun _ s

theorem rejectMessage_eq (s : State) :
    rejectMessage s = { s with events := s.events ++ [.txReject], result := .rejected } := rfl

/-! The encoder. -/

/-- All that `TX_SEND` can do first. -/
theorem sendMessage_cases (id : Word16) (payload : List Byte) (s : State) :
    (s.params.payloadCap < payload.length ∧ sendMessage id payload s = rejectMessage s) ∨
    (payload.length ≤ s.params.payloadCap ∧
      sendMessage id payload s = startFrame id payload (messageCk id payload) (ckMessage id payload s)) := by
  unfold sendMessage
  by_cases h : s.params.payloadCap < payload.length
  · exact .inl ⟨h, by simp [State.tooLong, h]⟩
  · exact .inr ⟨by omega, by simp [State.tooLong, h, ckResult_ckMessage]⟩

/-- All that a byte transition can do (43_frame_encoder.md R212). -/
theorem encByteTransition_cases {s t : State} (h : encByteTransition s = .next t) :
    ∃ b, encByte s.encPos.toNat s = some b ∧
      (((s.encPos + 1).toNat = s.txLen.toNat + 8 ∧
        t = { s with sent := s.sent ++ [b], encPos := s.encPos + 1, encBusy := false, result := .ok }) ∨
       ((s.encPos + 1).toNat ≠ s.txLen.toNat + 8 ∧
        t = { s with sent := s.sent ++ [b], encPos := s.encPos + 1 })) := by
  unfold encByteTransition at h
  split at h
  · cases h
  next b hb =>
    refine ⟨b, hb, ?_⟩
    simp only at h
    split at h
    next hp => cases h; exact .inl ⟨hp, rfl⟩
    next hp => cases h; exact .inr ⟨hp, rfl⟩

theorem encByte_position {p : Nat} {s : State} {b : Byte} (h : encByte p s = some b) : p < s.txLen.toNat + 8 := by
  unfold encByte at h
  split_ifs at h <;> omega

/-! Whose operation it is. -/

/-- All that performing a code can do. -/
theorem runCode_cases {c : Bool} {code : List Byte} {s : State} :
    (∃ e, decodeWhole s.params code = .error e ∧ runCode c code s = .refused (.badEncoding e)) ∨
    (∃ i, decodeWhole s.params code = .ok i ∧
      (((i.agent == .consumer) ≠ c ∧ runCode c code s = .refused .wrongAgent) ∨
       ((i.agent == .consumer) = c ∧ agentExists i.agent s = false ∧ runCode c code s = .refused .noProducer) ∨
       ((i.agent == .consumer) = c ∧ agentExists i.agent s = true ∧ selected i s = false ∧
         runCode c code s = .refused .byteActionNotSelected) ∨
       ((i.agent == .consumer) = c ∧ agentExists i.agent s = true ∧ selected i s = true ∧
         runCode c code s = exec i s))) := by
  unfold runCode
  cases hd : decodeWhole s.params code with
  | error e => exact .inl ⟨e, rfl, rfl⟩
  | ok i =>
    refine .inr ⟨i, rfl, ?_⟩
    by_cases hc : (i.agent == .consumer) = c
    · cases ha : agentExists i.agent s <;> cases hs : selected i s <;> simp [hc, ha, hs]
    · exact .inl ⟨hc, by simp [hc]⟩

/-- An agent that does not exist is P, under `UsbDirect`. -/
theorem agentExists_eq_false {a : Agent} {s : State} :
    agentExists a s = false ↔ a = .producer ∧ s.cfgTransport = .usbDirect := by
  cases a <;> simp [agentExists]
  cases s.cfgTransport <;> simp

theorem agentExists_consumer (s : State) : agentExists .consumer s = true := rfl

/-- Inside a send or a blocking pulse C's turn leaves the state as it is. -/
theorem consumerTurn_waiting {s : State} (h : s.encBusy = true ∨ s.pulseLeft ≠ 0) : consumerTurn s = .next s := by
  unfold consumerTurn
  rw [if_pos (by simpa using h)]

end Sys2Proof.Machine
end

