-- ==== Sys2Proof/Laws/Exec.lean ====
section
/-! SUPPORT. One inversion lemma per operation with branches: if it answers a next state,
      then one of these cases holds. -/

namespace Sys2Proof.Machine

theorem execQPush_cases {x : Byte} {s t : State} (h : execQPush x s = .next t) :
    (s.qCount < s.params.queueCap ∧ s.qIn < s.params.queueCap ∧
      t = { s with qb := Mem.set s.qb s.qIn x, qIn := (s.qIn + 1) % s.params.queueCap, qCount := s.qCount + 1 }) ∨
    (s.params.queueCap ≤ s.qCount ∧
      t = { s with events := s.events ++ [.qOverflow], status := setQOvf s.status }) := by
  unfold execQPush at h
  split at h
  next hlt =>
    split at h
    · cases h
    next u hu =>
      obtain ⟨hin, rfl⟩ := writeQb_cases hu
      cases h
      exact .inl ⟨hlt, hin, rfl⟩
  next hge => cases h; exact .inr ⟨by omega, rfl⟩

theorem execQPop_cases {s t : State} (h : execQPop s = .next t) :
    (s.qCount = 0 ∧ t = s.answer (.popped none)) ∨
    (s.qCount ≠ 0 ∧ s.qOut < s.params.queueCap ∧
      t = { s with
        qOut := (s.qOut + 1) % s.params.queueCap, qCount := s.qCount - 1
        result := .popped (some (s.byteAt .qb s.qOut)) }) := by
  unfold execQPop at h
  split at h
  · cases h
  next r u hu =>
    cases h
    rcases queuePop_cases hu with ⟨h0, rfl, rfl⟩ | ⟨h0, hlt, rfl, rfl⟩
    · exact .inl ⟨h0, rfl⟩
    · exact .inr ⟨h0, hlt, rfl⟩

theorem execActAwaitSync0_cases {tick : Nat} {b : Byte} {s t : State} (h : execActAwaitSync0 tick b s = .next t) :
    (b = s.params.sync0 ∧
      t = { s with tMark := s.tickReg tick, dstate := .awaitSync1, result := .stepped true false }) ∨
    (b ≠ s.params.sync0 ∧ t = { s with result := .stepped true false }) := by
  unfold execActAwaitSync0 at h
  split at h
  next hb => cases h; exact .inl ⟨hb, rfl⟩
  next hb => cases h; exact .inr ⟨hb, rfl⟩

theorem execActAwaitSync1_cases {b : Byte} {s t : State} (h : execActAwaitSync1 b s = .next t) :
    (b = s.params.sync1 ∧ t = { s with dstate := .identifierLow, result := .stepped true false }) ∨
    (b ≠ s.params.sync1 ∧ t = { s with dstate := .awaitSync0, result := .stepped true false }) := by
  unfold execActAwaitSync1 at h
  split at h
  next hb => cases h; exact .inl ⟨hb, rfl⟩
  next hb => cases h; exact .inr ⟨hb, rfl⟩

theorem execActLengthHigh_cases {b : Byte} {s t : State} (h : execActLengthHigh b s = .next t) :
    (withHighByte s.rxLen b = 0 ∧
      t = { s with
        rxLen := withHighByte s.rxLen b, remaining := withHighByte s.rxLen b, rxValid := false
        dstate := .checksumLow, result := .stepped true false }) ∨
    (s.params.payloadCap < (withHighByte s.rxLen b).toNat ∧
      t = { s with
        rxLen := withHighByte s.rxLen b, remaining := withHighByte s.rxLen b, rxValid := false
        dstate := .awaitSync0, events := s.events ++ [.lenReject], status := setLenRej s.status
        result := .stepped true false }) ∨
    (withHighByte s.rxLen b ≠ 0 ∧ (withHighByte s.rxLen b).toNat ≤ s.params.payloadCap ∧
      t = { s with
        rxLen := withHighByte s.rxLen b, remaining := withHighByte s.rxLen b, rxValid := false
        dstate := .payload, result := .stepped true false }) := by
  unfold execActLengthHigh at h
  simp only at h
  split at h
  next h0 => cases h; exact .inl ⟨h0, rfl⟩
  next h0 =>
    split at h
    next hc => cases h; exact .inr (.inl ⟨hc, rfl⟩)
    next hc => cases h; exact .inr (.inr ⟨h0, by omega, rfl⟩)

theorem execActPayload_cases {b : Byte} {s t : State} (h : execActPayload b s = .next t) :
    s.remaining ≠ 0 ∧ s.remaining.toNat ≤ s.rxLen.toNat ∧
    s.rxLen.toNat - s.remaining.toNat < s.params.payloadCap ∧
    t = { s with
      pl := Mem.set s.pl (s.rxLen.toNat - s.remaining.toNat) b
      remaining := s.remaining - 1, rxValid := false
      dstate := if s.remaining - 1 = 0 then .checksumLow else s.dstate
      result := .stepped true false } := by
  unfold execActPayload at h
  split at h
  · cases h
  next h0 =>
    split at h
    · cases h
    next hle =>
      split at h
      · cases h
      next u hu =>
        obtain ⟨hlt, rfl⟩ := writePl_cases hu
        cases h
        exact ⟨h0, by omega, hlt, rfl⟩

/-- `DEC_STEP` is the timeout check, at most one byte, and the action on it (41_frame_decoder.md R151). -/
theorem execDecStep_cases {tick : Nat} {s t : State} (h : execDecStep tick s = .next t) :
    ∃ r u, tryReadByte (resyncCheck tick s) = some (r, u) ∧
      ((r = none ∧ t = u.answer (.stepped false false)) ∨ (∃ b, r = some b ∧ byteAction tick b u = .next t)) := by
  unfold execDecStep at h
  split at h
  · cases h
  next u hu => cases h; exact ⟨_, u, hu, .inl ⟨rfl, rfl⟩⟩
  next b u hu => exact ⟨_, u, hu, .inr ⟨b, rfl, h⟩⟩

theorem execCkVerify_cases {s t : State} (h : execCkVerify s = .next t) :
    ¬ (s.rxValid = true ∧ s.params.payloadCap < s.rxLen.toNat) ∧
    t = { s with
      ckA := (ckPair (headerBytes s.readMessage.id s.readMessage.len ++ s.readMessage.payload)).1
      ckB := (ckPair (headerBytes s.readMessage.id s.readMessage.len ++ s.readMessage.payload)).2
      draws := if s.rxValid then s.draws else s.draws + 1
      result := .verified (checksumMatches
        (ck (headerBytes s.readMessage.id s.readMessage.len ++ s.readMessage.payload)) s.readMessage.ck) } := by
  unfold execCkVerify at h
  split at h
  · cases h
  next hn =>
    simp only [Bool.and_eq_true, decide_eq_true_eq] at hn
    refine ⟨hn, ?_⟩
    cases h
    rw [ckResult_ckRun, ckRun_eq, afterRead_eq]
    rfl

theorem execMsgRead_frame {sel : MsgSel} {i : Word16} {s t : State} (h : execMsgRead sel i s = .next t) :
    t = { s with draws := t.draws, result := t.result } := by
  unfold execMsgRead at h
  cases sel <;> simp only [afterRead_eq] at h
  · cases h; rfl
  · cases h; rfl
  · cases h; rfl
  · split at h <;> cases h <;> rfl

end Sys2Proof.Machine
end

