-- ==== Sys2Proof/Laws/Queue.lean ====
section
/-! SUPPORT. The queue as a list of bytes, and the bytes that `TryReadByte()` will return. -/

namespace Sys2Proof.Machine

/-- Two states with the same memories and the same reset read the same bytes everywhere. -/
theorem sameBytes_of {s t : State} (h : t.pl = s.pl) (h2 : t.qb = s.qb) (h3 : t.txm = s.txm)
      (h4 : t.epoch = s.epoch) : SameBytes s t := by
  intro sp a; apply byteAt_congr _ h4; cases sp <;> simpa [State.mem]

/-- The live bytes depend on the queue's own state alone. -/
theorem queueBytes_congr {s t : State} (h1 : t.qb = s.qb) (h2 : t.epoch = s.epoch) (h3 : t.qOut = s.qOut)
      (h4 : t.qCount = s.qCount) (h5 : t.params = s.params) : queueBytes t = queueBytes s := by
  unfold queueBytes; rw [h3, h4, h5]; apply List.map_congr_left; intro k _; exact byteAt_congr (space := .qb) h1 h2 _

/-- A pop takes the oldest live byte (40_receive_queue.md R133). -/
theorem queueBytes_pop {s : State} (h0 : s.qCount ≠ 0) :
    queueBytes s = s.byteAt .qb (s.qOut % s.params.queueCap) :: queueBytes { s with
          qOut := (s.qOut + 1) % s.params.queueCap, qCount := s.qCount - 1 } := by
  unfold queueBytes
  obtain ⟨n, hn⟩ := Nat.exists_eq_succ_of_ne_zero h0
  simp only [hn, List.range_succ_eq_map, List.map_cons, List.map_map]
  simp only [Nat.add_zero, Nat.succ_sub_one]
  congr 1
  apply List.map_congr_left
  intro k hk
  simp only [Function.comp, Nat.mod_add_mod]
  rw [show s.qOut + k.succ = s.qOut + 1 + k by omega]
  apply byteAt_congr rfl rfl

/-- An accepted push is the newest live byte (40_receive_queue.md R131). -/
theorem queueBytes_push {s : State} (h : QueueInv s) (hlt : s.qCount < s.params.queueCap) (x : Byte) :
    queueBytes { s with
          qb := Mem.set s.qb s.qIn x, qIn := (s.qIn + 1) % s.params.queueCap, qCount := s.qCount + 1 } = queueBytes s ++ [x] := by
  unfold queueBytes
  simp only [List.range_succ, List.map_append, List.map_cons, List.map_nil]
  congr 1
  · apply List.map_congr_left
    intro k hk
    have hk := List.mem_range.mp hk
    refine (byteAt_setQb s s.qIn _ x).trans (if_neg ?_)
    rw [← h.cursors]
    intro e
    have := h.out_lt
    have h2 := h.count_le
    -- (o + k) % N = (o + c) % N, k < c < N
    have a1 := Nat.div_add_mod (s.qOut + k) s.params.queueCap
    have a2 := Nat.div_add_mod (s.qOut + s.qCount) s.params.queueCap
    have e' : s.qOut + k ≡ s.qOut + s.qCount [MOD s.params.queueCap] := e
    have := Nat.ModEq.add_left_cancel' _ e'
    rw [Nat.ModEq, Nat.mod_eq_of_lt (by omega), Nat.mod_eq_of_lt hlt] at this
    omega
  · congr 1
    refine (byteAt_setQb s s.qIn _ x).trans (if_pos h.cursors)

/-- The pending bytes depend on the queue's state and the transport's alone. -/
theorem pendingBytes_congr {s t : State} (h1 : t.qb = s.qb) (h2 : t.epoch = s.epoch) (h3 : t.qOut = s.qOut)
      (h4 : t.qCount = s.qCount) (h5 : t.params = s.params) (h6 : t.cfgTransport = s.cfgTransport)
      (h7 : t.line = s.line) : pendingBytes t = pendingBytes s := by
  unfold pendingBytes; rw [h6, h7, queueBytes_congr h1 h2 h3 h4 h5]

/-- All that `TryReadByte()` can do to the pending bytes: it takes the oldest, or there is none. -/
theorem tryReadByte_pending {s u : State} {r} (h : tryReadByte s = some (r, u)) :
   u = { s with qOut := u.qOut, qCount := u.qCount, line := u.line } ∧
   ((r = none ∧ pendingBytes s = [] ∧ u = s) ∨ ∃ b, r = some b ∧ pendingBytes s = b :: pendingBytes u) := by
  rcases tryReadByte_cases h with ⟨rfl, rfl⟩ | ⟨b, rfl, hc, h0, hl, hb, rfl⟩ | ⟨b, rest, rfl, hc, hl, rfl⟩
  · refine ⟨rfl, .inl ⟨rfl, ?_, rfl⟩⟩
    unfold tryReadByte at h
    split at h
    next hc =>
      rcases queuePop_cases h with ⟨h0, -, -⟩ | ⟨h0, hl, hr, -⟩
      · simp [pendingBytes, hc, queueBytes, h0]
      · cases hr
    next hc =>
      simp only [usbRead] at h
      split at h
      next hl => simp [pendingBytes, hc, hl]
      next => cases h
  · refine ⟨rfl, .inr ⟨b, rfl, ?_⟩⟩
    simp only [pendingBytes, hc]
    rw [queueBytes_pop h0, Nat.mod_eq_of_lt hl, hb]
    congr 1
  · refine ⟨rfl, .inr ⟨b, rfl, ?_⟩⟩
    simp [pendingBytes, hc, hl]

/-- With the queue's invariant it does not stop. -/
theorem tryReadByte_ok {s : State} (h : QueueInv s) : ∃ r u, tryReadByte s = some (r, u) := by
  unfold tryReadByte
  split
  · by_cases h0 : s.qCount = 0
    · exact ⟨_, _, queuePop_empty h0⟩
    · exact ⟨_, _, queuePop_byte h0 h.out_lt⟩
  · exact ⟨_, _, rfl⟩

end Sys2Proof.Machine
end

