-- ==== Sys2Proof/Laws/Frames.lean ====
section
/-! SUPPORT. What each group of operations leaves alone, said once. -/

namespace Sys2Proof.Machine

/-- All that the action on a consumed byte can do (41_frame_decoder.md R165). -/
theorem byteAction_cases {tick : Nat} {b : Byte} {s t : State} (h : byteAction tick b s = .next t) :
    t = { s with
          tMark := t.tMark, dstate := t.dstate, rxId := t.rxId, rxLen := t.rxLen, rxCk := t.rxCk
          rxValid := t.rxValid, remaining := t.remaining, pl := t.pl, status := t.status, events := t.events
          result := t.result } ∧
    ((s.dstate = .awaitSync0 ∧ b = s.params.sync0 ∧ t = { s with
          tMark := s.tickReg tick, dstate := .awaitSync1, result := .stepped true false }) ∨
     (s.dstate = .awaitSync0 ∧ b ≠ s.params.sync0 ∧ t = { s with result := .stepped true false }) ∨
     (s.dstate = .awaitSync1 ∧ t.result = .stepped true false ∧ t.tMark = s.tMark ∧ t.events = s.events ∧
       (t.dstate = .awaitSync0 → b ≠ s.params.sync1)) ∨
     (s.dstate = .lengthHigh ∧ t.result = .stepped true false ∧ t.tMark = s.tMark ∧ (t.events = s.events ∧
           t.dstate ≠ .awaitSync0 ∨ t.events = s.events ++ [.lenReject])) ∨
     (s.dstate = .checksumHigh ∧ t.events = s.events ∧ t = { s with
           rxCk := withHighByte s.rxCk b, rxValid := true, dstate := .awaitSync0, result := .stepped true true }) ∨
     (t.result = .stepped true false ∧ t.dstate ≠ .awaitSync0 ∧ t.tMark = s.tMark ∧ t.events = s.events)) := by
  unfold byteAction at h
  split at h <;> rename_i hs
  · rcases execActAwaitSync0_cases h with ⟨h0, rfl⟩ | ⟨h0, rfl⟩
    · exact ⟨rfl, .inl ⟨hs, h0, rfl⟩⟩
    · exact ⟨rfl, .inr (.inl ⟨hs, h0, rfl⟩)⟩
  · rcases execActAwaitSync1_cases h with ⟨-, rfl⟩ | ⟨h0, rfl⟩
    · exact ⟨rfl, .inr (.inr (.inl ⟨hs, rfl, rfl, rfl, nofun⟩))⟩
    · exact ⟨rfl, .inr (.inr (.inl ⟨hs, rfl, rfl, rfl, fun _ => h0⟩))⟩
  · cases h; exact ⟨rfl, .inr (.inr (.inr (.inr (.inr ⟨rfl, nofun, rfl, rfl⟩))))⟩
  · cases h; exact ⟨rfl, .inr (.inr (.inr (.inr (.inr ⟨rfl, nofun, rfl, rfl⟩))))⟩
  · cases h; exact ⟨rfl, .inr (.inr (.inr (.inr (.inr ⟨rfl, nofun, rfl, rfl⟩))))⟩
  · rcases execActLengthHigh_cases h with ⟨-, rfl⟩ | ⟨-, rfl⟩ | ⟨-, -, rfl⟩
    · exact ⟨rfl, .inr (.inr (.inr (.inl ⟨hs, rfl, rfl, .inl ⟨rfl, nofun⟩⟩)))⟩
    · exact ⟨rfl, .inr (.inr (.inr (.inl ⟨hs, rfl, rfl, .inr rfl⟩)))⟩
    · exact ⟨rfl, .inr (.inr (.inr (.inl ⟨hs, rfl, rfl, .inl ⟨rfl, nofun⟩⟩)))⟩
  · obtain ⟨-, -, -, rfl⟩ := execActPayload_cases h
    refine ⟨rfl, .inr (.inr (.inr (.inr (.inr ⟨rfl, ?_, rfl, rfl⟩))))⟩
    simp only [hs]; split <;> simp
  · cases h; exact ⟨rfl, .inr (.inr (.inr (.inr (.inr ⟨rfl, nofun, rfl, rfl⟩))))⟩
  · cases h; exact ⟨rfl, .inr (.inr (.inr (.inr (.inl ⟨hs, rfl, rfl⟩))))⟩

/-- The byte action that the decoder's state selects, as an operation. -/
theorem exec_actionFor (d tick b) (s : State)
      (h : s.dstate = d) : exec (actionFor d tick b) s = byteAction tick b s := by
  unfold byteAction; subst h; cases h : s.dstate <;> rfl

/-- What a byte action requested as an operation can change. -/
theorem exec_action_cases {i : Instr} {d} {s t : State} (h : actionState i = some d) (e : exec i s = .next t) :
    t = { s with
          tMark := t.tMark, dstate := t.dstate, rxId := t.rxId, rxLen := t.rxLen, rxCk := t.rxCk
          rxValid := t.rxValid, remaining := t.remaining, pl := t.pl, status := t.status, events := t.events
          result := t.result } ∧ (t.tMark ≠ s.tMark → ∃ tick, i = .actAwaitSync0 tick s.params.sync0 ∧
                t.tMark = s.tickReg tick ∧ t.dstate = .awaitSync1 ∧ t.result = .stepped true false) := by
  cases i <;> simp only [actionState, reduceCtorEq, Option.some.injEq] at h
  case actAwaitSync0 tick b =>
    rcases execActAwaitSync0_cases e with ⟨h, rfl⟩ | ⟨-, rfl⟩
    · exact ⟨rfl, fun _ => ⟨tick, by rw [h], rfl, rfl, rfl⟩⟩
    · exact ⟨rfl, fun h => absurd rfl h⟩
  case actAwaitSync1 => rcases execActAwaitSync1_cases e with ⟨-, rfl⟩ | ⟨-, rfl⟩ <;> exact ⟨rfl, fun h => absurd rfl h⟩
  case actLengthHigh => rcases execActLengthHigh_cases e with ⟨-, rfl⟩ | ⟨-, rfl⟩ | ⟨-, -, rfl⟩ <;>
        exact ⟨rfl, fun h => absurd rfl h⟩
  case actPayload => obtain ⟨-, -, -, rfl⟩ := execActPayload_cases e; exact ⟨rfl, fun h => absurd rfl h⟩
  all_goals cases e; exact ⟨rfl, fun h => absurd rfl h⟩

/-- What `DEC_STEP` can change (10_state.md R52). -/
theorem execDecStep_frame {s t : State} {tick} (e : exec (.decStep tick) s = .next t) :
   t = { s with
         tMark := t.tMark, dstate := t.dstate, rxId := t.rxId, rxLen := t.rxLen, rxCk := t.rxCk
         rxValid := t.rxValid, remaining := t.remaining, pl := t.pl, status := t.status, events := t.events
         result := t.result, qOut := t.qOut, qCount := t.qCount, line := t.line } := by
  obtain ⟨r, u, hu, h⟩ := execDecStep_cases e
  have h1 := (tryReadByte_pending hu).1
  have h2 : u = { s with
        dstate := u.dstate, rxValid := u.rxValid, events := u.events, qOut := u.qOut, qCount := u.qCount
        line := u.line } := by
    rcases resyncCheck_cases tick s with ⟨-, h⟩ | ⟨-, -, -, h⟩ <;> rw [h] at h1 <;> rw [h1]
  rcases h with ⟨-, rfl⟩ | ⟨b, -, hb⟩
  · rw [h2]; rfl
  · have := (byteAction_cases hb).1
    rw [this, h2]

/-- What the first transition of a send can change. -/
theorem sendMessage_frame (id pl) (s : State) : sendMessage id pl s = { s with
      ckA := (sendMessage id pl s).ckA, ckB := (sendMessage id pl s).ckB, txId := (sendMessage id pl s).txId
      txLen := (sendMessage id pl s).txLen, txCk := (sendMessage id pl s).txCk
      txm := (sendMessage id pl s).txm, encPos := (sendMessage id pl s).encPos
      encBusy := (sendMessage id pl s).encBusy, result := (sendMessage id pl s).result
      events := (sendMessage id pl s).events } := by
  rcases sendMessage_cases id pl s with ⟨-, h⟩ | ⟨-, h⟩ <;> rw [h]
  · rfl
  · rw [ckMessage_eq]; rfl

/-- What an operation that is neither `RESET` nor the decoder's can change (10_state.md R52). -/
theorem exec_frame_of_not_decoder {i : Instr} {s t : State} (e : exec i s = .next t) (h1 : i ≠ .reset)
      (h2 : ∀ tick, i ≠ .decStep tick) (h3 : actionState i = none) :
   t = { s with
         qIn := t.qIn, qOut := t.qOut, qCount := t.qCount, qb := t.qb, status := t.status, events := t.events
         result := t.result, ckA := t.ckA, ckB := t.ckB, draws := t.draws, encBusy := t.encBusy
         encPos := t.encPos, txId := t.txId, txLen := t.txLen, txCk := t.txCk, txm := t.txm, line := t.line
         dstate := t.dstate, rxValid := t.rxValid } ∧ (i ≠ .decReset → t.dstate = s.dstate ∧
               t.rxValid = s.rxValid) := by
  cases i <;> simp only [actionState, reduceCtorEq] at h3
  case reset => exact absurd rfl h1
  case qPush x => rcases execQPush_cases e with ⟨-, -, rfl⟩ | ⟨-, rfl⟩ <;> exact ⟨rfl, fun _ => ⟨rfl, rfl⟩⟩
  case qPop => rcases execQPop_cases e with ⟨-, rfl⟩ | ⟨-, -, rfl⟩ <;> exact ⟨rfl, fun _ => ⟨rfl, rfl⟩⟩
  case statusRead => cases e; exact ⟨rfl, fun _ => ⟨rfl, rfl⟩⟩
  case statusClear => cases e; exact ⟨rfl, fun _ => ⟨rfl, rfl⟩⟩
  case decStep tick => exact absurd rfl (h2 tick)
  case decReset => cases e; exact ⟨rfl, fun h => absurd rfl h⟩
  case msgRead sel idx => rw [execMsgRead_frame e]; exact ⟨rfl, fun _ => ⟨rfl, rfl⟩⟩
  case ckInit => cases e; exact ⟨rfl, fun _ => ⟨rfl, rfl⟩⟩
  case ckUpdate => cases e; exact ⟨rfl, fun _ => ⟨rfl, rfl⟩⟩
  case ckResult => cases e; exact ⟨rfl, fun _ => ⟨rfl, rfl⟩⟩
  case ckMsg id pl =>
    simp only [exec, execCkMsg, ckMessage_eq] at e
    split at e <;> cases e <;> exact ⟨rfl, fun _ => ⟨rfl, rfl⟩⟩
  case ckVerify => obtain ⟨-, rfl⟩ := execCkVerify_cases e; exact ⟨rfl, fun _ => ⟨rfl, rfl⟩⟩
  case encFrame id pl ck =>
    simp only [exec, execEncFrame] at e
    split at e <;> cases e <;> exact ⟨rfl, fun _ => ⟨rfl, rfl⟩⟩
  case txSend id pl =>
    have : t = sendMessage id pl s := by cases e; rfl
    rw [this, sendMessage_frame]; exact ⟨rfl, fun _ => ⟨rfl, rfl⟩⟩
  case txSendEmpty id =>
    have : t = sendMessage id [] s := by cases e; rfl
    rw [this, sendMessage_frame]; exact ⟨rfl, fun _ => ⟨rfl, rfl⟩⟩
  case frame => cases e; exact ⟨rfl, fun _ => ⟨rfl, rfl⟩⟩

end Sys2Proof.Machine
end

