-- ==== Sys2Proof/Tests/Slice0.lean ====
section
/-! SUPPORT. Tests: ill-formed operands are refused, codes written out from the spec decode, one step of each operation
against a vector or worked example of the spec, and a witness for the hypotheses of each obligation.

Each expected value is the spec's own: the vector (`V-...`, `P...`, 95_test_vectors.md) or the rule's worked example stands in
the theorem's docstring. -/

namespace Sys2Proof.Tests

open Sys2Proof.Machine

/-- The state that an outcome answers, if it answers one. -/
def after (o : Host.Outcome State Fault Refusal) : Option State :=
  match o with
  | .next t => some t
  | _ => none

/-- What a field of the next state is. -/
def afterOp {α : Type} (i : Instr) (s : State) (f : State → α) : Option α := (after (exec i s)).map f

/-- The spec's illustrative instance (95_test_vectors.md) and its reset state. -/
def cfg : Params := Config.illustrative

/-- After `RESET`. -/
def base : State := State.reset

/-- `n` zero bytes. -/
def zeros (n : Nat) : List Byte := List.replicate n 0

/-! Ill-formed operands (WellFormed). -/

theorem test_tick_of_33_bits_is_ill_formed : (Instr.decStep 4294967296).wellFormed cfg = false := by decide
theorem test_tick_of_32_bits_is_well_formed : (Instr.decStep 4294967295).wellFormed cfg = true := by decide
theorem test_action_tick_is_checked : (Instr.actAwaitSync0 4294967296 0).wellFormed cfg = false := by decide
theorem test_payload_of_65536_is_ill_formed :
    (Instr.ckMsg 0 (zeros 65536)).wellFormed cfg = false ∧ (Instr.encFrame 0 (zeros 65536) 0).wellFormed cfg = false ∧
    (Instr.txSend 0 (zeros 65536)).wellFormed cfg = false ∧ (Instr.frame 0 (zeros 65536) 0).wellFormed cfg = false := by
  simp only [Instr.wellFormed, payloadFits, zeros, List.length_replicate]; decide
theorem test_payload_of_65535_is_well_formed : (Instr.ckMsg 0 (zeros 65535)).wellFormed cfg = true := by
  simp only [Instr.wellFormed, payloadFits, zeros, List.length_replicate]; decide

/-! Decoding: every constructor by a code written out from `opsel` (30_encoding.md R109), the `DSTATE` code (R107) or the
frame layout (R100), in the model's code format (log 1). -/

theorem test_decode_queue_and_status :
    decodeWhole cfg [0x00] = .ok .reset ∧ decodeWhole cfg [0x01, 0x7E] = .ok (.qPush 0x7E) ∧
    decodeWhole cfg [0x02] = .ok .qPop ∧ decodeWhole cfg [0x03] = .ok .statusRead ∧
    decodeWhole cfg [0x04, 0b01] = .ok (.statusClear 0b01) := ⟨rfl, rfl, rfl, rfl, rfl⟩
theorem test_decode_decoder :
    decodeWhole cfg [0x05, 0x11, 0x27, 0x00, 0x00] = .ok (.decStep 10001) ∧ decodeWhole cfg [0x06] = .ok .decReset ∧
    decodeWhole cfg [0x07, 0x00, 0x00, 0x00] = .ok (.msgRead .id 0) ∧
    decodeWhole cfg [0x07, 0x03, 0x34, 0x12] = .ok (.msgRead .payload 0x1234) := ⟨rfl, rfl, rfl, rfl⟩
theorem test_decode_checksum :
    decodeWhole cfg [0x08] = .ok .ckInit ∧ decodeWhole cfg [0x09, 0xFF] = .ok (.ckUpdate 0xFF) ∧
    decodeWhole cfg [0x0A] = .ok .ckResult ∧
    decodeWhole cfg [0x0B, 0xEF, 0xBE, 0x02, 0x00, 0xDE, 0xAD] = .ok (.ckMsg 0xBEEF [0xDE, 0xAD]) ∧
    decodeWhole cfg [0x0C] = .ok .ckVerify := ⟨rfl, rfl, rfl, rfl, rfl⟩
theorem test_decode_encoder :
    decodeWhole cfg [0x0D, 0x01, 0x00, 0x00, 0x00, 0x01, 0x05] = .ok (.encFrame 1 [] 0x0501) ∧
    decodeWhole cfg [0x0E, 0xFF, 0x00, 0x01, 0x00, 0xFF] = .ok (.txSend 0x00FF [0xFF]) ∧
    decodeWhole cfg [0x0F, 0x01, 0x02] = .ok (.txSendEmpty 0x0201) := ⟨rfl, rfl, rfl⟩
theorem test_decode_actions :
    decodeWhole cfg [0x10, 0xBC, 0x02, 0x00, 0x00, 0xA5] = .ok (.actAwaitSync0 700 0xA5) ∧
    decodeWhole cfg [0x11, 0x5A] = .ok (.actAwaitSync1 0x5A) ∧ decodeWhole cfg [0x12, 0x34] = .ok (.actIdentifierLow 0x34) ∧
    decodeWhole cfg [0x13, 0x12] = .ok (.actIdentifierHigh 0x12) ∧ decodeWhole cfg [0x14, 0x03] = .ok (.actLengthLow 0x03) ∧
    decodeWhole cfg [0x15, 0x00] = .ok (.actLengthHigh 0x00) ∧ decodeWhole cfg [0x16, 0x07] = .ok (.actPayload 0x07) ∧
    decodeWhole cfg [0x17, 0x4F] = .ok (.actChecksumLow 0x4F) ∧
    decodeWhole cfg [0x18, 0x91] = .ok (.actChecksumHigh 0x91) := ⟨rfl, rfl, rfl, rfl, rfl, rfl, rfl, rfl, rfl⟩
theorem test_decode_frame :
    decodeWhole cfg [0x20, 0xA5, 0x5A, 0x34, 0x12, 0x03, 0x00, 0xA5, 0x5A, 0x07, 0x4F, 0x91] =
      .ok (.frame 0x1234 [0xA5, 0x5A, 0x07] 0x914F) := rfl
theorem test_decode_rejects :
    decodeWhole cfg [] = .error .empty ∧ decodeWhole cfg [0x30] = .error .reservedCode ∧
    decodeWhole cfg [0x21] = .error .reservedCode ∧ decodeWhole cfg [0x01] = .error .truncated ∧
    decodeWhole cfg [0x04, 0x04] = .error .maskTooWide ∧ decodeWhole cfg [0x07, 0x04, 0, 0] = .error .badSelector ∧
    decodeWhole cfg [0x20, 0xA5, 0x5B] = .error .notSync ∧
    decodeWhole cfg [0x02, 0x00] = .error .trailingBytes := ⟨rfl, rfl, rfl, rfl, rfl, rfl, rfl, rfl⟩
theorem test_decode_rejects_wide_tick :
    decodeWhole { cfg with tickW := 15 } [0x05, 0x00, 0x80] = .error .tickTooWide := by rfl
theorem test_table_words :
    decodeTableWord 8 0x1 = some (.qPush 0) ∧ decodeTableWord 8 0xF = some (.txSendEmpty 0) ∧
    decodeTableWord 64 0x0000000000015AA5 = some (.frame 1 [] 0) ∧
    decodeTableWord 64 0x0401000000015AA5 = some (.frame 1 [] 0x0401) := ⟨rfl, rfl, rfl, rfl⟩

/-! The Receive Queue and the status register. -/

/-- 40_receive_queue.md R131, worked example (V-Q7). -/
theorem test_push_wraps :
    afterOp (.qPush 0x7E) { base with qIn := 3, qOut := 1, qCount := 2 } (fun t => (t.qIn, t.qOut, t.qCount, t.qb)) =
      some (0, 1, 3, [(3, 0x7E)]) := by decide
/-- V-Q1 step 9: drop newest. -/
theorem test_push_on_full_queue :
    afterOp (.qPush 0x07) { base with qIn := 2, qOut := 2, qCount := 4, qb := [(0, 5), (1, 6), (2, 3), (3, 4)] }
      (fun t => ((t.qIn, t.qCount, t.qb), t.status, t.events)) =
      some ((2, 4, [(0, 5), (1, 6), (2, 3), (3, 4)]), 0b01, [.qOverflow]) := by decide
/-- 40_receive_queue.md R133, worked example (V-Q7). -/
theorem test_pop :
    afterOp .qPop { base with qb := [(1, 0x5A)], qIn := 3, qOut := 1, qCount := 2 }
      (fun t => (t.result, t.qOut, t.qCount)) = some (.popped (some 0x5A), 2, 1) := by decide
/-- V-Q1 step 15. -/
theorem test_pop_empty : afterOp .qPop base (fun t => (t.result, t.qOut, t.qCount)) = some (.popped none, 0, 0) := by
  decide
/-- V-S2. -/
theorem test_status_read :
    afterOp .statusRead { base with status := 0b11 } (fun t => (t.result, t.status)) = some (.status 0b11, 0b11) := by
  decide
/-- V-S3 and V-S4. -/
theorem test_status_clear :
    afterOp (.statusClear 0b01) { base with status := 0b11 } State.status = some 0b10 ∧
    afterOp (.statusClear 0b10) { base with status := 0b11 } State.status = some 0b01 := by decide

/-! The nine byte actions. -/

/-- V-D1 and V-D2. -/
theorem test_await_sync0 :
    afterOp (.actAwaitSync0 700 0xA5) base (fun t => (t.dstate, t.tMark, t.result)) =
      some (.awaitSync1, 700, .stepped true false) ∧
    afterOp (.actAwaitSync0 700 0x00) { base with tMark := 33 } (fun t => (t.dstate, t.tMark, t.result)) =
      some (.awaitSync0, 33, .stepped true false) := by decide
/-- V-D4 and V-D5. -/
theorem test_await_sync1 :
    afterOp (.actAwaitSync1 0x5A) { base with dstate := .awaitSync1, tMark := 700 } (fun t => (t.dstate, t.tMark)) =
      some (.identifierLow, 700) ∧
    afterOp (.actAwaitSync1 0xA5) { base with dstate := .awaitSync1, tMark := 700 } (fun t => (t.dstate, t.tMark)) =
      some (.awaitSync0, 700) := by decide
/-- V-D6: the high byte is kept; the last message is no longer valid (10_state.md R34). -/
theorem test_identifier_low :
    afterOp (.actIdentifierLow 0x34) { base with dstate := .identifierLow, rxId := 0xAB00, rxValid := true }
      (fun t => (t.dstate, t.rxId, t.rxValid)) = some (.identifierHigh, 0xAB34, false) := by decide
/-- V-D7. -/
theorem test_identifier_high :
    afterOp (.actIdentifierHigh 0x12) { base with dstate := .identifierHigh, rxId := 0x0034 }
      (fun t => (t.dstate, t.rxId)) = some (.lengthLow, 0x1234) := by decide
/-- V-D8. -/
theorem test_length_low :
    afterOp (.actLengthLow 0x03) { base with dstate := .lengthLow } (fun t => (t.dstate, t.rxLen)) =
      some (.lengthHigh, 3) := by decide
/-- V-D9 and V-L1. -/
theorem test_length_high :
    afterOp (.actLengthHigh 0x00) { base with dstate := .lengthHigh, rxLen := 0x0003 }
      (fun t => (t.dstate, t.rxLen, t.remaining)) = some (.payload, 3, 3) ∧
    afterOp (.actLengthHigh 0x00) { base with dstate := .lengthHigh, rxLen := 0x0000 }
      (fun t => (t.dstate, t.rxLen, t.remaining)) = some (.checksumLow, 0, 0) := by decide
/-- V-L3 and V-L4: 16 is accepted, 17 is not. -/
theorem test_length_high_bound :
    afterOp (.actLengthHigh 0x00) { base with dstate := .lengthHigh, rxLen := 0x0010 }
      (fun t => (t.dstate, t.remaining, t.status)) = some (.payload, 16, 0b00) ∧
    afterOp (.actLengthHigh 0x00) { base with dstate := .lengthHigh, rxLen := 0x0011 }
      (fun t => (t.dstate, t.remaining, t.status, t.events)) = some (.awaitSync0, 17, 0b10, [.lenReject]) := by decide
/-- V-D10 and V-D11. -/
theorem test_payload :
    afterOp (.actPayload 0xA5) { base with dstate := .payload, rxLen := 3, remaining := 3 }
      (fun t => (t.dstate, t.remaining, t.pl)) = some (.payload, 2, [(0, 0xA5)]) ∧
    afterOp (.actPayload 0x07) { base with dstate := .payload, rxLen := 3, remaining := 1 }
      (fun t => (t.dstate, t.remaining, t.pl)) = some (.checksumLow, 0, [(2, 0x07)]) := by decide
/-- V-D12, first half. -/
theorem test_checksum_low :
    afterOp (.actChecksumLow 0x4F) { base with dstate := .checksumLow } (fun t => (t.dstate, t.rxCk)) =
      some (.checksumHigh, 0x004F) := by decide
/-- V-D12, second half. -/
theorem test_checksum_high :
    afterOp (.actChecksumHigh 0x91) { base with dstate := .checksumHigh, rxCk := 0x004F }
      (fun t => (t.dstate, t.rxCk, t.rxValid, t.result)) = some (.awaitSync0, 0x914F, true, .stepped true true) := by
  decide

/-! `DEC_STEP`, `DEC_RESET`, `MSG_READ`. -/

/-- V-T1, V-T2, V-T3 and V-T4: 10000 does not fire, 10001 does, also across a wrap. -/
theorem test_step_timeout :
    afterOp (.decStep 15000) { base with dstate := .payload, tMark := 5000, rxLen := 3, remaining := 3 } State.dstate =
      some .payload ∧
    afterOp (.decStep 15001) { base with dstate := .payload, tMark := 5000, rxLen := 3, remaining := 3 } State.dstate =
      some .awaitSync0 ∧
    afterOp (.decStep 0x2610) { base with dstate := .awaitSync1, tMark := 0xFFFFFF00 } State.dstate = some .awaitSync1 ∧
    afterOp (.decStep 0x2611) { base with dstate := .awaitSync1, tMark := 0xFFFFFF00 }
      (fun t => (t.dstate, t.events)) = some (.awaitSync0, [.resync]) := by decide
/-- V-T11: the byte is handled in `AwaitSync0` in the same step. -/
theorem test_step_timeout_then_byte :
    afterOp (.decStep 10001)
      { base with dstate := .identifierHigh, qb := [(0, 0xA5)], qIn := 1, qCount := 1 }
      (fun t => (t.dstate, t.tMark, t.qCount, t.result)) = some (.awaitSync1, 10001, 0, .stepped true false) := by decide
/-- 41_frame_decoder.md R163, worked example (V-D17 step 4). -/
theorem test_dec_reset :
    afterOp .decReset { base with dstate := .payload } State.dstate = some .awaitSync0 := by decide
/-- 41_frame_decoder.md R163: past `AwaitSync1` the message leaves its window, in `AwaitSync1` it stays. -/
theorem test_dec_reset_window :
    afterOp .decReset { base with dstate := .identifierLow, rxValid := true } State.rxValid = some false ∧
    afterOp .decReset { base with dstate := .awaitSync1, rxValid := true } State.rxValid = some true := by decide

/-- After the frame of 41_frame_decoder.md R164's worked example. -/
def received : State :=
  { base with
    rxId := 0x1234, rxLen := 3, rxCk := 0x914F, rxValid := true, pl := [(0, 0xA5), (1, 0x5A), (2, 0x07)] }

/-- 41_frame_decoder.md R164, worked example. -/
theorem test_msg_read :
    afterOp (.msgRead .id 0) received State.result = some (.word 0x1234) ∧
    afterOp (.msgRead .len 0) received State.result = some (.word 3) ∧
    afterOp (.msgRead .ck 0) received State.result = some (.word 0x914F) ∧
    afterOp (.msgRead .payload 2) received State.result = some (.byte 0x07) := by decide
/-- 41_frame_decoder.md R164: an index at `PAYLOAD_CAP` is refused. -/
theorem test_msg_read_refused : afterOp (.msgRead .payload 16) received State.result = some .refused := by decide

/-! The Checksum Engine. -/

/-- 42_checksum_engine.md R191, worked example. -/
theorem test_ck_init :
    afterOp .ckInit { base with ckA := 0x4F, ckB := 0x91 } (fun t => (t.ckA, t.ckB)) = some (0, 0) := by decide
/-- V-K25. -/
theorem test_ck_update :
    afterOp (.ckUpdate 0xFF) { base with ckA := 0xFF, ckB := 0xFF } (fun t => (t.ckA, t.ckB)) = some (0xFE, 0xFD) := by
  decide
/-- 42_checksum_engine.md R193, worked example. -/
theorem test_ck_result :
    afterOp .ckResult { base with ckA := 0x01, ckB := 0x04 } State.result = some (.word 0x0401) := by decide
/-- V-K26. -/
theorem test_ck_msg :
    afterOp (.ckMsg 0x1234 [0xA5, 0x5A, 0x07]) base (fun t => (t.result, t.ckA, t.ckB)) =
      some (.word 0x914F, 0x4F, 0x91) := by decide
/-- V-K26: 17 bytes are rejected, the accumulators unchanged. -/
theorem test_ck_msg_rejected :
    afterOp (.ckMsg 1 (zeros 17)) { base with ckA := 7, ckB := 9 } (fun t => (t.result, t.ckA, t.ckB)) =
      some (.rejected, 7, 9) := by decide
/-- V-K27. -/
theorem test_ck_verify : afterOp .ckVerify received State.result = some (.verified true) := by decide
/-- V-K27: all 16 bits are compared. -/
theorem test_ck_verify_mismatch :
    afterOp .ckVerify { base with rxId := 1, rxLen := 0, rxCk := 0x0400, rxValid := true }
      (fun t => (t.result, t.ckA, t.ckB)) = some (.verified false, 0x01, 0x04) := by decide

/-! The Frame Encoder. -/

/-- What has been sent once the transport has accepted `n` bytes. -/
def sentAfter (n : Nat) (i : Instr) (s : State) : Option (List Byte × Bool × Result) :=
  (after (exec i s)).bind fun t => (acceptTimes n t).map fun u => (u.sent, u.encBusy, u.result)

/-- V-E10: the encoder does not check `ck`. -/
theorem test_enc_frame :
    sentAfter 8 (.encFrame 1 [] 0x0501) base =
      some ([0xA5, 0x5A, 0x01, 0x00, 0x00, 0x00, 0x01, 0x05], false, .ok) := by decide
/-- V-E12. -/
theorem test_enc_frame_rejected :
    afterOp (.encFrame 1 (zeros 17) 0) base (fun t => (t.encBusy, t.sent, t.result)) = some (false, [], .rejected) := by
  decide
/-- V-E5. -/
theorem test_tx_send :
    sentAfter 10 (.txSend 0xBEEF [0xDE, 0xAD]) base =
      some ([0xA5, 0x5A, 0xEF, 0xBE, 0x02, 0x00, 0xDE, 0xAD, 0x3A, 0xC1], false, .ok) := by decide
/-- V-E13, the fourth byte. -/
theorem test_tx_send_empty :
    sentAfter 4 (.txSendEmpty 1) base = some ([0xA5, 0x5A, 0x01, 0x00], true, .pending) := by decide

/-! `RESET`, the line, the Poll Dispatcher. -/

/-- V-R1. -/
theorem test_reset :
    afterOp .reset { base with dstate := .payload, qIn := 2, qOut := 2, qCount := 4, status := 0b01, encBusy := true }
      (fun t => (t.dstate, t.qIn, t.qOut, t.qCount, t.status, t.encBusy)) =
      some (.awaitSync0, 0, 0, 0, 0, false) := by decide
/-- 30_encoding.md R100, with the bytes of V-E1. -/
theorem test_frame :
    afterOp (.frame 1 [] 0x0401) base State.line = some [0xA5, 0x5A, 0x01, 0x00, 0x00, 0x00, 0x01, 0x04] := by decide

/-- The last byte of a frame waits in the queue and C is about to poll. -/
def polling (last : Byte) : State :=
  { base with
    dstate := .checksumHigh, rxId := 1, rxLen := 0, rxCk := 0x0001, qb := [(0, last)], qIn := 1, qCount := 1
    requests := [.poll 7], turns := [.consumer] }

/-- 44_poll_dispatcher.md R235: the eighth poll of the source's scenario. -/
theorem test_poll_step :
    (after (step (polling 0x04))).map (fun t => (t.result, t.rxCk, t.pulses, t.pollPhase)) =
      some (.stepped true true, 0x0401, [⟨.status, 200⟩], .verify) := by decide
/-- 44_poll_dispatcher.md R235: with the last byte 0x05 the short error pulse, and no dispatch. -/
theorem test_poll_mismatch :
    (after (step { base with
      rxId := 1, rxLen := 0, rxCk := 0x0501, rxValid := true, pollPhase := .verify, turns := [.consumer] })).map
      (fun t => (t.events, t.pulses, t.handed, t.pollPhase)) = some ([.ckMismatch], [⟨.error, 10000⟩], [], .idle) := by
  decide

/-- 70_reset_and_hazards.md R294: where pulses block, C makes no `DEC_STEP` until the time units of the activity pulse
(44_poll_dispatcher.md R232) have passed. -/
theorem test_poll_blocking_pulse :
    (after (step { polling 0x04 with params := { cfg with pulseBlocks := true } })).map State.pulseLeft = some 200 ∧
    (after (step { polling 0x04 with params := { cfg with pulseBlocks := true }, pulseLeft := 1 })).map State.qCount =
      some 1 ∧
    (after (step { polling 0x04 with pulseLeft := 1, turns := [.timeUnit] })).map State.pulseLeft = some 0 := by decide
/-- 00_scope.md R18: P exists only under `SerialQueued`. -/
theorem test_no_producer_under_usb :
    step { base with cfgTransport := .usbDirect, turns := [.outside [0x01, 0x7E]] } = .refused .noProducer := rfl
/-- 60_exceptions.md R265: a reply inside `evaluate` starts a send and the poll goes on. -/
theorem test_poll_reply :
    (after (step { received with
      pollPhase := .evaluating, turns := [.consumer], evaluator := [.sendEmpty 1, .handled] })).map
      (fun t => (t.encBusy, t.txId, t.txCk, t.pollPhase, t.evaluator)) =
      some (true, 1, 0x0401, .evaluating, [.handled]) := by decide

/-! One operation placed after reset is the next step's. -/

theorem test_placed_words_run :
    ∀ opsel : Fin 16, (after (step (State.reset.withFetchWord 8 opsel.val))).isSome = true := by decide
theorem test_placed_byte_actions_run :
    ∀ code : Fin 5, (after (step (State.reset.withFetchWord 8 (0x10 + code.val)))).isSome = true := by decide

/-! Witnesses: concrete states and operands that meet the hypotheses of each obligation that has some, at the boundary
values of its clauses. They show nothing else. -/

/-- Mid-frame at the last payload byte of a frame of exactly `PAYLOAD_CAP` bytes, the tick just before its wrap, the queue
full and wrapped. -/
def midFrame : State :=
  { base with
    dstate := .payload, rxLen := 16, remaining := 1, tMark := 0xFFFFFF00
    qb := [(0, 1), (1, 2), (2, 3), (3, 4)], qIn := 3, qOut := 3, qCount := 4 }

/-- The same, one byte short of a full queue, and the count at one. -/
def almostFull : State := { midFrame with qOut := 0, qCount := 3 }
def oneByte : State := { midFrame with qOut := 2, qCount := 1 }

/-- Under `UsbDirect`, with a byte and without. -/
def usb : State :=
  { base with
    params := { cfg with transport := .usbDirect }, cfgTransport := .usbDirect, line := [0xA5, 0x5A] }

/-- C sends a frame of two payload bytes and has `pos` bytes out. -/
def sending (pos : BitVec 17) : State :=
  { base with encBusy := true, encPos := pos, txId := 0xBEEF, txLen := 2, txCk := 0xC13A, txm := [(0, 0xDE), (1, 0xAD)] }

/-- C is inside a blocking pulse with `left` time units to go. -/
def inPulse (left : Nat) : State := { base with params := { cfg with pulseBlocks := true }, pulseLeft := left }

theorem midFrame_inv : StateInv midFrame :=
  ⟨by decide, ⟨by decide, by decide, by decide, by decide⟩, ⟨by decide, by decide, by decide⟩,
    ⟨by decide, by decide, by decide⟩, ⟨by decide, by decide, by decide⟩,
    ⟨by decide, by decide, by decide, by decide, by decide⟩, ⟨by decide, by decide⟩⟩
theorem almostFull_inv : QueueInv almostFull := ⟨by decide, by decide, by decide, by decide⟩
theorem oneByte_inv : QueueInv oneByte := ⟨by decide, by decide, by decide, by decide⟩
theorem usb_inv : StateInv usb :=
  ⟨by decide, ⟨by decide, by decide, by decide, by decide⟩, ⟨by decide, by decide, by decide⟩,
    ⟨by decide, by decide, by decide⟩, ⟨by decide, by decide, by decide⟩,
    ⟨by decide, by decide, by decide, by decide, by decide⟩, ⟨by decide, by decide⟩⟩
theorem received_inv : StateInv received :=
  ⟨by decide, ⟨by decide, by decide, by decide, by decide⟩, ⟨by decide, by decide, by decide⟩,
    ⟨by decide, by decide, by decide⟩, ⟨by decide, by decide, by decide⟩,
    ⟨by decide, by decide, by decide, by decide, by decide⟩, ⟨by decide, by decide⟩⟩

theorem witness_DecodeOfEncodeIsTheOperation :
    ∀ i ∈ [Instr.decStep 4294967295, .actAwaitSync0 0 0xA5, .ckMsg 0xBEEF [0xDE, 0xAD], .frame 1 [] 0x0401, .msgRead .ck 7,
      .statusClear 0b11], i.wellFormed cfg = true := by decide
theorem witness_DecodeReadsAWellFormedPrefix :
    decode cfg [0x01, 0x7E, 0x02] = .ok (.qPush 0x7E, [0x02]) := rfl
theorem witness_ReservedCodesRefusedOrAwaitSync0 :
    (3 ≤ (0x30 : Byte).toNat / 16 ∧ 3 ≤ (0xFF : Byte).toNat / 16) ∧
    ((0x21 : Byte).toNat / 16 = 2 ∧ (0x21 : Byte).toNat % 16 ≠ 0) ∧
    ((0x19 : Byte).toNat / 16 = 1 ∧ 9 ≤ (0x19 : Byte).toNat % 16) ∧
    (0x1F : Byte).toNat / 16 = 1 ∧ 9 ≤ (0x1F : Byte).toNat % 16 := by decide
theorem witness_FrameHasEachFieldAtItsOffset :
    (zeros 65535).length < 65536 ∧ 0 < [0xDE, (0xAD : Byte)].length ∧ 1 < [0xDE, (0xAD : Byte)].length := by
  refine ⟨?_, by decide, by decide⟩
  rw [zeros, List.length_replicate]
  decide
theorem witness_StepIsExecOfTheDecodedOperation :
    (decodeWhole cfg [0x16, 0x07] = .ok (.actPayload 0x07) ∧ (Instr.actPayload 0x07).agent = .consumer ∧
      selected (.actPayload 0x07) { midFrame with turns := [.consumer], requests := [.op [0x16, 0x07]] } = true ∧
      midFrame.encBusy = false ∧ midFrame.pulseLeft = 0 ∧ midFrame.pollPhase = .idle) ∧
    (decodeWhole cfg [0x01, 0x7E] = .ok (.qPush 0x7E) ∧ (Instr.qPush 0x7E).agent = .producer ∧
      base.cfgTransport = .serialQueued ∧ usb.cfgTransport = .usbDirect) ∧
    decodeWhole cfg [0x00] = .ok .reset ∧ Instr.reset.agent ≠ .consumer ∧ Instr.reset.agent ≠ .producer :=
  ⟨⟨rfl, rfl, rfl, rfl, rfl, rfl⟩, ⟨rfl, rfl, rfl, rfl⟩, rfl, by decide, by decide⟩
theorem witness_PlacedWordIsTheNextOperation :
    (∃ rest, decode cfg (tableBytes cfg 8 0x5) = .ok (.decStep 0, rest)) ∧
    (∃ rest, decode cfg (tableBytes cfg 8 0x16) = .ok (.actPayload 0, rest)) ∧
    ∃ rest, decode cfg (tableBytes cfg 8 0x1) = .ok (.qPush 0, rest) := ⟨⟨_, rfl⟩, ⟨_, rfl⟩, ⟨_, rfl⟩⟩
theorem witness_InterruptPushesTheOldestByte :
    (base.cfgTransport = .serialQueued ∧ { base with turns := [.interrupt], line := [0x7E] }.line = [0x7E]) ∧
    base.line = [] ∧ usb.cfgTransport = .usbDirect := ⟨⟨rfl, rfl⟩, rfl, rfl⟩
theorem witness_StepKeepsTheInvariant : (StateInv midFrame ∧ ∃ t, step midFrame = .next t) ∧
    StateInv (inPulse 200) ∧ ∃ t, step { inPulse 200 with turns := [.timeUnit] } = .next t :=
  ⟨⟨midFrame_inv, _, rfl⟩,
    ⟨by decide, ⟨by decide, by decide, by decide, by decide⟩, ⟨by decide, by decide, by decide⟩,
      ⟨by decide, by decide, by decide⟩, ⟨by decide, by decide, by decide⟩,
      ⟨by decide, by decide, by decide, by decide, by decide⟩, ⟨by decide, by decide⟩⟩, _, rfl⟩
theorem witness_ResetStateHasTheInvariant : cfg.legal ∧
    Params.legal ⟨0, 0, 0, 1, 15, 16383, .usbDirect, true⟩ ∧ Params.legal ⟨0xA5, 0xA5, 65535, 1, 64, 10000, .serialQueued, false⟩ := by
  decide
theorem witness_InvariantStatesNeverFault : StateInv midFrame ∧ StateInv usb ∧ StateInv received :=
  ⟨midFrame_inv, usb_inv, received_inv⟩
theorem witness_ResetEstablishesTheInvariant : (sending 3).params.legal ∧ Mem.wf (sending 3).txm := by decide

theorem witness_PushStoresTheByte :
    almostFull.qCount < almostFull.params.queueCap ∧ almostFull.qIn < almostFull.params.queueCap ∧
    base.qCount < base.params.queueCap ∧ base.qIn < base.params.queueCap := by decide
theorem witness_PushOnFullQueueDropsTheByte : midFrame.qCount = midFrame.params.queueCap := rfl
theorem witness_PopReturnsTheByteAtOut :
    base.qCount = 0 ∧ 0 < midFrame.qCount ∧ midFrame.qOut < midFrame.params.queueCap := by decide
theorem witness_QueueIsAFifoList : QueueInv midFrame ∧ QueueInv almostFull ∧ QueueInv usb :=
  ⟨midFrame_inv.queue, almostFull_inv, usb_inv.queue⟩
theorem witness_PushAndPopCommute :
    (QueueInv oneByte ∧ 0 < oneByte.qCount ∧ oneByte.qCount < oneByte.params.queueCap) ∧
    QueueInv almostFull ∧ 0 < almostFull.qCount ∧ almostFull.qCount < almostFull.params.queueCap :=
  ⟨⟨oneByte_inv, by decide, by decide⟩, almostFull_inv, by decide, by decide⟩

theorem witness_AwaitSync0TakesOnlySync0 : 0xA5 = base.params.sync0 ∧ 0xA4 ≠ base.params.sync0 := by decide
theorem witness_LengthHighBoundsTheLength :
    withHighByte 0x0000 0x00 = 0 ∧
    (withHighByte 0x0011 0x00 ≠ 0 ∧ cfg.payloadCap < (withHighByte 0x0011 0x00).toNat) ∧
    withHighByte 0x0010 0x00 ≠ 0 ∧ (withHighByte 0x0010 0x00).toNat ≤ cfg.payloadCap := by decide
theorem witness_PayloadByteIsStoredInOrder :
    (midFrame.dstate = .payload ∧ 1 ≤ midFrame.remaining.toNat ∧ midFrame.remaining.toNat ≤ midFrame.rxLen.toNat ∧
      midFrame.rxLen.toNat ≤ midFrame.params.payloadCap) ∧
    1 ≤ { midFrame with remaining := 16 }.remaining.toNat ∧
    { midFrame with remaining := 16 }.remaining.toNat ≤ midFrame.rxLen.toNat := by decide

theorem witness_DecStepActsOnOneByte :
    (QueueInv midFrame ∧ midFrame.elapsed 0x2610 = midFrame.params.resyncTicks ∧ pendingBytes midFrame = [4, 1, 2, 3]) ∧
    (QueueInv base ∧ base.dstate = .awaitSync0 ∧ pendingBytes base = []) ∧
    QueueInv usb ∧ usb.dstate = .awaitSync0 ∧ pendingBytes usb = [0xA5, 0x5A] :=
  ⟨⟨midFrame_inv.queue, by decide, by decide⟩, ⟨⟨by decide, by decide, by decide, by decide⟩, rfl, rfl⟩,
    usb_inv.queue, rfl, rfl⟩
theorem witness_DecStepCompletes : StateInv midFrame ∧ StateInv usb := ⟨midFrame_inv, usb_inv⟩
theorem witness_TimeoutFiresStrictlyAboveTheThreshold :
    midFrame.dstate ≠ .awaitSync0 ∧ midFrame.tMark < 2 ^ midFrame.params.tickW ∧ 0x2611 < 2 ^ midFrame.params.tickW ∧
    midFrame.params.resyncTicks + 1 = 0x2611 + 2 ^ midFrame.params.tickW - midFrame.tMark ∧
    midFrame.params.resyncTicks = 0x2610 + 2 ^ midFrame.params.tickW - midFrame.tMark := by decide
theorem witness_ByteAfterTimeoutIsASyncCandidate :
    (QueueInv midFrame ∧ midFrame.dstate ≠ .awaitSync0 ∧ midFrame.params.resyncTicks < midFrame.elapsed 0x2611 ∧
      pendingBytes midFrame = [4, 1, 2, 3]) ∧
    pendingBytes { midFrame with qb := [(0, 1), (1, 2), (2, 3), (3, 0xA5)] } = [0xA5, 1, 2, 3] :=
  ⟨⟨midFrame_inv.queue, by decide, by decide, by decide⟩, by decide⟩
theorem witness_DecStepTakesAtMostOneByte :
    (∃ t, exec (.decStep 0) base = .next t) ∧ ∃ t, exec (.decStep 0x2610) midFrame = .next t := ⟨⟨_, rfl⟩, _, rfl⟩
theorem witness_CompleteOnlyFromChecksumHigh :
    ∃ t, exec (.decStep 7) (polling 0x04) = .next t ∧ t.result.complete = true := ⟨_, rfl, by decide⟩
theorem witness_DecResetWritesDstateOnly :
    received.dstate = .awaitSync0 ∧ { received with dstate := .awaitSync1 }.dstate = .awaitSync1 ∧
    midFrame.dstate ≠ .awaitSync0 ∧ midFrame.dstate ≠ .awaitSync1 := by decide
theorem witness_MsgReadReturnsTheReceivedMessage :
    received.rxValid = true ∧ (0x0002 : Word16).toNat < received.params.payloadCap ∧
    (0x0002 : Word16).toNat < received.rxLen.toNat ∧ (15 : Word16).toNat < { received with rxLen := 16 }.rxLen.toNat ∧
    received.params.payloadCap ≤ (16 : Word16).toNat := by decide
theorem witness_SyncBytesAreNotLookedAtTwice :
    base.dstate = .awaitSync0 ∧ base.params.sync0 ≠ base.params.sync1 ∧
    { cfg with sync1 := 0xA5 }.sync0 = { cfg with sync1 := 0xA5 }.sync1 := by decide
theorem witness_AllTheWaysToAwaitSync0 :
    ∀ is ∈ [(Instr.reset, midFrame), (.decReset, midFrame), (.decStep 0x2611, midFrame),
        (.actAwaitSync1 0, { base with dstate := .awaitSync1 }),
        (.actLengthHigh 0, { base with dstate := .lengthHigh, rxLen := 17 }),
        (.actChecksumHigh 0, { base with dstate := .checksumHigh })],
      selected is.1 is.2 = true ∧ is.2.dstate ≠ .awaitSync0 ∧ afterOp is.1 is.2 State.dstate = some .awaitSync0 := by decide
theorem witness_MarkIsWrittenOnlyAtSync0 :
    (∃ t, exec (.actAwaitSync0 700 0xA5) base = .next t ∧ t.tMark ≠ base.tMark) ∧
    (∃ t, exec (.decStep 700) usb = .next t ∧ t.tMark ≠ usb.tMark) ∧
    ∃ t, exec (.decStep 10001) { usb with dstate := .payload } = .next t ∧ t.tMark ≠ usb.tMark :=
  ⟨⟨_, rfl, by decide⟩, ⟨_, rfl, by decide⟩, _, rfl, by decide⟩

/-- Ticks that come as late as they may: the threshold is met by every byte after the first, and exceeded by none. -/
def lateTicks (n : Nat) : List Nat := 7 :: List.replicate n 10007

theorem witness_FedFrameIsReceived :
    (StateInv received ∧ received.dstate = .awaitSync0 ∧ pendingBytes received = [] ∧
      (zeros 16).length ≤ received.params.payloadCap ∧ (lateTicks 23).length = (zeros 16).length + 8 ∧
      ∀ tick ∈ lateTicks 23, { received with tMark := received.tickReg (lateTicks 23).head! }.elapsed tick ≤
        received.params.resyncTicks) ∧
    let idleUsb : State := { usb with line := [] }
    StateInv idleUsb ∧ idleUsb.dstate = .awaitSync0 ∧ pendingBytes idleUsb = [] ∧
      (zeros 0).length ≤ idleUsb.params.payloadCap ∧ (lateTicks 7).length = (zeros 0).length + 8 ∧
      ∀ tick ∈ lateTicks 7, { idleUsb with tMark := idleUsb.tickReg (lateTicks 7).head! }.elapsed tick ≤
        idleUsb.params.resyncTicks :=
  ⟨⟨received_inv, rfl, rfl, by decide, by decide, by decide⟩,
    ⟨by decide, ⟨by decide, by decide, by decide, by decide⟩, ⟨by decide, by decide, by decide⟩,
      ⟨by decide, by decide, by decide⟩, ⟨by decide, by decide, by decide⟩,
      ⟨by decide, by decide, by decide, by decide, by decide⟩, ⟨by decide, by decide⟩⟩, rfl, rfl, by decide, by decide, by decide⟩

theorem witness_OneChangedByteChangesTheChecksum : (0x00 : Byte) ≠ 0xFF := by decide
theorem witness_CkMsgComputesOrRejects :
    (zeros 16).length ≤ base.params.payloadCap ∧ base.params.payloadCap < (zeros 17).length := by decide
theorem witness_CkVerifyComparesWithTheReceivedChecksum :
    (received.rxValid = true ∧ received.rxLen.toNat ≤ received.params.payloadCap) ∧
    { received with rxLen := 16 }.rxLen.toNat ≤ received.params.payloadCap ∧ base.rxValid = false := by decide
theorem witness_OnlyChecksumOperationsTouchTheAccumulators :
    ∃ t, exec (.ckUpdate 0xFF) base = .next t ∧ t.ckA ≠ base.ckA := ⟨_, rfl, by decide⟩
theorem witness_EncFrameLatchesTheOperand :
    base.params.legal ∧ (zeros 16).length ≤ base.params.payloadCap ∧ base.params.payloadCap < (zeros 17).length ∧
    15 < (zeros 16).length := by decide
theorem witness_OversizeOperandsAreRejected : base.params.payloadCap < (zeros 17).length := by decide
theorem witness_ByteTransitionSendsTheByteAtItsOffset :
    ∀ pos : Fin 10, (sending (BitVec.ofNat 17 pos.val)).encBusy = true ∧ EncoderInv (sending (BitVec.ofNat 17 pos.val)) :=
  fun pos => ⟨rfl, ⟨by revert pos; decide, by revert pos; decide, by revert pos; decide⟩⟩
theorem witness_TxSendIsCkMsgThenEncFrame :
    (zeros 16).length ≤ base.params.payloadCap ∧ base.params.payloadCap < (zeros 17).length := by decide
theorem witness_SendWritesExactlyOneFrame :
    base.params.legal ∧ (zeros 16).length ≤ base.params.payloadCap ∧ 23 < (zeros 16).length + 8 ∧
    0 < (zeros 0).length + 8 := by decide
theorem witness_TxSendEmptyWritesEightBytes : base.params.legal := by decide
theorem witness_BlockedConsumerDoesNothing :
    ((sending 3).encBusy = true ∧
      ∃ t, step { sending 3 with turns := [.accept] } = .next t ∧ t.epoch = (sending 3).epoch) ∧
    ((inPulse 1).pulseLeft ≠ 0 ∧
      ∃ t, step { inPulse 1 with turns := [.timeUnit] } = .next t ∧ t.epoch = (inPulse 1).epoch) ∧
    { inPulse 1 with turns := [.timeUnit] }.turns = .timeUnit :: [] :=
  ⟨⟨rfl, _, rfl, rfl⟩, ⟨by decide, _, rfl, rfl⟩, rfl⟩

theorem witness_FrameReachesTheTransport :
    (∃ ts, { base with turns := [.arrive 0x7E], line := [0xA5] }.turns = .arrive 0x7E :: ts) ∧
    (∃ ts, { sending 3 with turns := [.accept] }.turns = .accept :: ts) ∧ (sending 3).encBusy = true ∧
    (∃ ts, { base with turns := [.accept] }.turns = .accept :: ts) ∧ base.encBusy = false :=
  ⟨⟨_, rfl⟩, ⟨_, rfl⟩, rfl, ⟨_, rfl⟩, rfl⟩
theorem witness_PollMakesOneDecodeStep :
    (∃ u, exec (.decStep 7) { polling 0x04 with turns := [], requests := [] } = .next u ∧ u.result.complete = true) ∧
    ∃ u, exec (.decStep 7) base = .next u ∧ u.result.consumed = false := ⟨⟨_, rfl, by decide⟩, _, rfl, by decide⟩
theorem witness_PollVerifiesTheFrame :
    (∃ u, exec .ckVerify { received with turns := [], pollPhase := .verify } = .next u ∧ u.result = .verified true) ∧
    ∃ u, exec .ckVerify { received with turns := [], pollPhase := .verify, rxCk := 0x914E } = .next u ∧
      u.result = .verified false := ⟨⟨_, rfl, by decide⟩, _, rfl, by decide⟩
theorem witness_PollDispatchesTheMessage :
    let d : State := { received with turns := [.consumer], pollPhase := .dispatch }
    let e : State := { received with turns := [.consumer], pollPhase := .evaluating, evaluator := [.unimplemented, .handled] }
    let r : State := { e with evaluator := [.sendEmpty 1, .send 2 [3]] }
    (d.encBusy = false ∧ d.pulseLeft = 0 ∧ d.rxValid = true ∧ d.pollPhase = .dispatch) ∧
    (e.encBusy = false ∧ e.pulseLeft = 0 ∧ e.pollPhase = .evaluating ∧ e.evaluator = .unimplemented :: [.handled]) ∧
    { e with evaluator := [.handled] }.evaluator = .handled :: [] ∧
    r.evaluator = .sendEmpty 1 :: [.send 2 [3]] ∧ { r with evaluator := [.send 2 [3]] }.evaluator = .send 2 [3] :: [] := by
  decide

theorem witness_QueueRegistersHaveTheirWriters :
    (∃ t, exec (.qPush 1) base = .next t ∧ t.qIn ≠ base.qIn ∧ t.qCount ≠ base.qCount) ∧
    (∃ t, exec .qPop midFrame = .next t ∧ t.qOut ≠ midFrame.qOut) ∧
    (∃ t, exec (.decStep 0) midFrame = .next t ∧ t.qOut ≠ midFrame.qOut) ∧
    usb.cfgTransport = .usbDirect ∧ ∃ t, step usb = .next t ∧ t.epoch = usb.epoch :=
  ⟨⟨_, rfl, by decide, by decide⟩, ⟨_, rfl, by decide⟩, ⟨_, rfl, by decide⟩, rfl, _, rfl, rfl⟩
theorem witness_OnlyTheDecoderWritesTheMessage :
    ∃ t, exec (.qPush 1) received = .next t ∧ actionState (.qPush 1) = none := ⟨_, rfl, rfl⟩
theorem witness_TransportIsFixedBetweenResets :
    (∃ t, step usb = .next t) ∧ ∃ t, step { usb with turns := [.outside [0x00]] } = .next t := ⟨⟨_, rfl⟩, _, rfl⟩
theorem witness_HistoryOnlyGrows :
    (∃ t, step (polling 0x04) = .next t) ∧ ∃ t, step { sending 9 with turns := [.accept] } = .next t :=
  ⟨⟨_, rfl⟩, _, rfl⟩

end Sys2Proof.Tests
end

section
/-! What `RESET` does to the registers of 10_state.md. -/

namespace Sys2Proof.Machine

/-- `RESET` has no precondition (10_state.md R49). -/
theorem exec_reset_completes (s : State) : ∃ t, exec .reset s = .next t := ⟨_, rfl⟩

/-- What `RESET` can change (10_state.md R49): the registers of the table take its values, those that the table leaves
unspecified take some value, C goes back to the start of its loop, and all else, the bytes sent with it, stays. -/
theorem execReset_frame {s t : State} (e : exec .reset s = .next t) :
    t = { s with
      dstate := .awaitSync0, qIn := 0, qOut := 0, qCount := 0, status := 0, ckA := 0, ckB := 0, encBusy := false
      cfgTransport := s.params.transport, rxValid := false
      rxId := t.rxId, rxLen := t.rxLen, rxCk := t.rxCk, remaining := t.remaining, tMark := t.tMark
      encPos := t.encPos, txId := t.txId, txLen := t.txLen, txCk := t.txCk, pl := [], qb := []
      result := .done, pollPhase := .idle, pulseLeft := 0, epoch := s.epoch + 1 } := by
  cases e; rfl

/-- Settles O13: every value of the table stands in the frame of `RESET`, and `sent` is among what it keeps. -/
theorem resetSetsTheTable : Obligations.ResetSetsTheTable := by
  intro s
  obtain ⟨t, e⟩ := exec_reset_completes s
  refine ⟨t, e, ?_⟩
  rw [execReset_frame e]
  exact ⟨rfl, rfl, rfl, rfl, rfl, rfl, rfl, rfl, rfl, rfl, rfl⟩

end Sys2Proof.Machine
end

section
/-! The bytes of a frame at their offsets (30_encoding.md R100). -/

namespace Sys2Proof.Machine

theorem lowByte_eq_ofNat (v : Word16) : lowByte v = BitVec.ofNat 8 v.toNat :=
  BitVec.eq_of_toNat_eq (lowByte_toNat v)

theorem highByte_eq_ofNat (v : Word16) : highByte v = BitVec.ofNat 8 (v.toNat / 256) := by
  apply BitVec.eq_of_toNat_eq
  rw [BitVec.toNat_ofNat, ← highByte_toNat, Nat.mod_eq_of_lt (highByte v).isLt]

/-- A frame is six bytes in front of the payload, the payload, and the two halves of the checksum. -/
theorem frameBytes_eq_prefix_payload_checksum (s0 s1 : Byte) (id : Word16) (payload : List Byte) (ck : Word16) :
    frameBytes s0 s1 id payload ck =
      (s0 :: s1 :: headerBytes id (lenField payload)) ++ (payload ++ [lowByte ck, highByte ck]) :=
  List.append_assoc ..

theorem frameBytes_getElem?_payload (s0 s1 : Byte) (id : Word16) (payload : List Byte) (ck : Word16) {k : Nat}
    (hk : k < payload.length) : (frameBytes s0 s1 id payload ck)[6 + k]? = payload[k]? := by
  rw [frameBytes_eq_prefix_payload_checksum, List.getElem?_append_right (Nat.le_add_right 6 k),
    List.getElem?_append_left (by simpa using hk)]
  simp

theorem frameBytes_getElem?_checksum (s0 s1 : Byte) (id : Word16) (payload : List Byte) (ck : Word16) (j : Nat) :
    (frameBytes s0 s1 id payload ck)[6 + payload.length + j]? = [lowByte ck, highByte ck][j]? := by
  have hlen : (s0 :: s1 :: headerBytes id (lenField payload) ++ payload).length = 6 + payload.length := by
    simp; omega
  rw [frameBytes_eq_prefix_payload_checksum, ← List.append_assoc, ← hlen,
    List.getElem?_append_right (Nat.le_add_right _ j), Nat.add_sub_cancel_left]

/-- Settles O5: the six bytes in front of the payload stand in the list itself, and the payload and the checksum are read
behind a prefix of known length. -/
theorem frameHasEachFieldAtItsOffset : Obligations.FrameHasEachFieldAtItsOffset := by
  intro s0 s1 id ck payload hlen w
  have hck : ∀ j, w[6 + payload.length + j]? = [lowByte ck, highByte ck][j]? :=
    frameBytes_getElem?_checksum s0 s1 id payload ck
  refine ⟨?length, rfl, rfl, ?idLow, ?idHigh, ?lenLow, ?lenHigh, ?payload, ?ckLow, ?ckHigh⟩
  case length => rw [frameBytes_length, Nat.add_comm]
  case idLow => exact congrArg some (lowByte_eq_ofNat id)
  case idHigh => exact congrArg some (highByte_eq_ofNat id)
  case lenLow => rw [← lenField_toNat payload hlen]; exact congrArg some (lowByte_eq_ofNat _)
  case lenHigh => rw [← lenField_toNat payload hlen]; exact congrArg some (highByte_eq_ofNat _)
  case payload => exact fun k => frameBytes_getElem?_payload s0 s1 id payload ck
  case ckLow => rw [← lowByte_eq_ofNat]; exact hck 0
  case ckHigh =>
    rw [← highByte_eq_ofNat, show 7 + payload.length = 6 + payload.length + 1 by omega]
    exact hck 1

end Sys2Proof.Machine
end

section
/-! The Receive Queue and the status register: what each operation answers (40_receive_queue.md R131 to R135). -/

namespace Sys2Proof.Machine

/-! The bits of `STATUS`. -/

theorem setQOvf_getLsbD_qOvf (status : BitVec 2) : (setQOvf status).getLsbD 0 = true := by
  simp [setQOvf]

theorem setQOvf_getLsbD_lenRej (status : BitVec 2) : (setQOvf status).getLsbD 1 = status.getLsbD 1 := by
  simp [setQOvf]

/-- `STATUS_CLEAR` acts on each bit that exists by its own mask bit (R135). -/
theorem clearStatus_getLsbD (mask status : BitVec 2) {i : Nat} (hi : i < 2) :
    (clearStatus mask status).getLsbD i = (status.getLsbD i && !mask.getLsbD i) := by
  simp [clearStatus, hi]

/-! Each operation's answer. -/

/-- R131: a push with room in the queue. -/
theorem exec_qPush_of_room {s : State} (x : Byte) (hroom : s.qCount < s.params.queueCap)
    (hin : s.qIn < s.params.queueCap) :
    exec (.qPush x) s = .next { s with
      qb := Mem.set s.qb s.qIn x, qIn := (s.qIn + 1) % s.params.queueCap, qCount := s.qCount + 1 } := by
  simp only [exec, execQPush, if_pos hroom, writeQb_ok x hin]

/-- R132: a push with no room in the queue. -/
theorem exec_qPush_of_full {s : State} (x : Byte) (hfull : s.params.queueCap ≤ s.qCount) :
    exec (.qPush x) s = .next { s with events := s.events ++ [.qOverflow], status := setQOvf s.status } := by
  simp only [exec, execQPush, if_neg (Nat.not_lt.mpr hfull), raise_qOverflow]

/-- R133 on an empty queue. -/
theorem exec_qPop_of_empty {s : State} (hempty : s.qCount = 0) :
    exec .qPop s = .next { s with result := .popped none } := by
  simp only [exec, execQPop, queuePop_empty hempty, State.answer]

/-- R133 with a byte queued. -/
theorem exec_qPop_of_byte {s : State} (hbyte : s.qCount ≠ 0) (hout : s.qOut < s.params.queueCap) :
    exec .qPop s = .next { s with
      qOut := (s.qOut + 1) % s.params.queueCap, qCount := s.qCount - 1
      result := .popped (some (s.byteAt .qb s.qOut)) } := by
  simp only [exec, execQPop, queuePop_byte hbyte hout, State.answer]

/-- R134. -/
theorem exec_statusRead (s : State) : exec .statusRead s = .next { s with result := .status s.status } := rfl

/-- R135. -/
theorem exec_statusClear (mask : BitVec 2) (s : State) :
    exec (.statusClear mask) s = .next { s with status := clearStatus mask s.status, result := .done } := rfl

/-! The obligations. -/

/-- Settles O15: an accepted push is one store to `QB` at `Q_IN`, and a byte reads back by read-after-write. -/
theorem pushStoresTheByte : Obligations.PushStoresTheByte := by
  intro s x hroom hin
  refine ⟨_, exec_qPush_of_room x hroom hin, ?stored, rfl, rfl, rfl, ?otherQb, ?pl, ?txm⟩
  case stored => exact (byteAt_setQb s s.qIn s.qIn x).trans (if_pos rfl)
  case otherQb => exact fun a ha => (byteAt_setQb s s.qIn a x).trans (if_neg ha)
  case pl => exact fun a _ => byteAt_congr (space := .pl) rfl rfl a
  case txm => exact fun a _ => byteAt_congr (space := .txm) rfl rfl a

/-- Settles O17: the two cases of a pop, neither of which touches a memory. -/
theorem popReturnsTheByteAtOut : Obligations.PopReturnsTheByteAtOut := by
  refine ⟨fun s hempty => ?empty, fun s hbyte hout => ?byte⟩
  case empty => exact ⟨_, exec_qPop_of_empty hempty, rfl, sameBytes_of rfl rfl rfl rfl⟩
  case byte =>
    exact ⟨_, exec_qPop_of_byte (Nat.ne_of_gt hbyte) hout, rfl, rfl, rfl, rfl, sameBytes_of rfl rfl rfl rfl⟩

/-- Settles O16: at `N` bytes a push raises the overflow event alone, whose entry action sets bit 0 of `STATUS` and
keeps bit 1. -/
theorem pushOnFullQueueDropsTheByte : Obligations.PushOnFullQueueDropsTheByte := by
  intro s x hfull
  exact ⟨_, exec_qPush_of_full x hfull.ge, setQOvf_getLsbD_qOvf s.status, setQOvf_getLsbD_lenRej s.status,
    rfl, rfl, sameBytes_of rfl rfl rfl rfl⟩

/-- Settles O18: a read answers `STATUS` and writes nothing; a clear is read off bit by bit. -/
theorem statusIsReadAndClearedBitwise : Obligations.StatusIsReadAndClearedBitwise := by
  refine ⟨fun s => ?read, fun s mask => ?clear⟩
  case read => exact ⟨_, exec_statusRead s, rfl, sameBytes_of rfl rfl rfl rfl⟩
  case clear =>
    exact ⟨_, exec_statusClear mask s, clearStatus_getLsbD mask s.status Nat.zero_lt_two,
      clearStatus_getLsbD mask s.status Nat.one_lt_two, rfl, sameBytes_of rfl rfl rfl rfl⟩

end Sys2Proof.Machine
end

section
/-! The two halves of a 16-bit register and the bits of `STATUS`, as the decoder writes them (41_frame_decoder.md R156 to
R162). -/

namespace Sys2Proof.Machine

theorem withLowByte_toNat_mod (v : Word16) (b : Byte) : (withLowByte v b).toNat % 256 = b.toNat := by
  rw [← lowByte_toNat, withLowByte, lowByte_joinBytes]

theorem withLowByte_toNat_div (v : Word16) (b : Byte) : (withLowByte v b).toNat / 256 = v.toNat / 256 := by
  rw [← highByte_toNat, withLowByte, highByte_joinBytes, highByte_toNat]

theorem withHighByte_toNat_div (v : Word16) (b : Byte) : (withHighByte v b).toNat / 256 = b.toNat := by
  rw [← highByte_toNat, withHighByte, highByte_joinBytes]

theorem withHighByte_toNat_mod (v : Word16) (b : Byte) : (withHighByte v b).toNat % 256 = v.toNat % 256 := by
  rw [← lowByte_toNat, withHighByte, lowByte_joinBytes, lowByte_toNat]

theorem setLenRej_getLsbD_lenRej (status : BitVec 2) : (setLenRej status).getLsbD 1 = true := by
  simp [setLenRej]

theorem setLenRej_getLsbD_qOvf (status : BitVec 2) : (setLenRej status).getLsbD 0 = status.getLsbD 0 := by
  simp [setLenRej]

end Sys2Proof.Machine
end

section
/-! The nine byte actions of the Frame Decoder: what each answers (41_frame_decoder.md R154 to R162). -/

namespace Sys2Proof.Machine

/-! Each action's answer. -/

/-- R154 on the first sync byte. -/
theorem exec_actAwaitSync0_of_sync0 {s : State} (tick : Nat) {b : Byte} (hb : b = s.params.sync0) :
    exec (.actAwaitSync0 tick b) s = .next { s with
      tMark := s.tickReg tick, dstate := .awaitSync1, result := .stepped true false } := if_pos hb

/-- R154 on any other byte. -/
theorem exec_actAwaitSync0_of_other {s : State} (tick : Nat) {b : Byte} (hb : b ≠ s.params.sync0) :
    exec (.actAwaitSync0 tick b) s = .next { s with result := .stepped true false } := if_neg hb

/-- R155. -/
theorem exec_actAwaitSync1 (s : State) (b : Byte) :
    exec (.actAwaitSync1 b) s = .next { s with
      dstate := if b = s.params.sync1 then .identifierLow else .awaitSync0, result := .stepped true false } := by
  simp only [exec, execActAwaitSync1]
  split <;> rfl

/-- R156. -/
theorem exec_actIdentifierLow (s : State) (b : Byte) :
    exec (.actIdentifierLow b) s = .next { s with
      rxId := withLowByte s.rxId b, rxValid := false, dstate := .identifierHigh, result := .stepped true false } := rfl

/-- R157. -/
theorem exec_actIdentifierHigh (s : State) (b : Byte) :
    exec (.actIdentifierHigh b) s = .next { s with
      rxId := withHighByte s.rxId b, rxValid := false, dstate := .lengthLow, result := .stepped true false } := rfl

/-- R158. -/
theorem exec_actLengthLow (s : State) (b : Byte) :
    exec (.actLengthLow b) s = .next { s with
      rxLen := withLowByte s.rxLen b, rxValid := false, dstate := .lengthHigh, result := .stepped true false } := rfl

/-- R159 on an assembled length of 0. -/
theorem exec_actLengthHigh_of_zero {s : State} {b : Byte} (hzero : withHighByte s.rxLen b = 0) :
    exec (.actLengthHigh b) s = .next { s with
      rxLen := withHighByte s.rxLen b, remaining := withHighByte s.rxLen b, rxValid := false
      dstate := .checksumLow, result := .stepped true false } := if_pos hzero

/-- R159 on an assembled length above `PAYLOAD_CAP`. -/
theorem exec_actLengthHigh_of_tooLong {s : State} {b : Byte}
    (hlong : s.params.payloadCap < (withHighByte s.rxLen b).toNat) :
    exec (.actLengthHigh b) s = .next { s with
      rxLen := withHighByte s.rxLen b, remaining := withHighByte s.rxLen b, rxValid := false
      dstate := .awaitSync0, events := s.events ++ [.lenReject], status := setLenRej s.status
      result := .stepped true false } := by
  have hzero : withHighByte s.rxLen b ≠ 0 := fun h => by simp [h] at hlong
  exact (if_neg hzero).trans (if_pos hlong)

/-- R159 on any other assembled length. -/
theorem exec_actLengthHigh_of_fits {s : State} {b : Byte} (hzero : withHighByte s.rxLen b ≠ 0)
    (hfits : (withHighByte s.rxLen b).toNat ≤ s.params.payloadCap) :
    exec (.actLengthHigh b) s = .next { s with
      rxLen := withHighByte s.rxLen b, remaining := withHighByte s.rxLen b, rxValid := false
      dstate := .payload, result := .stepped true false } :=
  (if_neg hzero).trans (if_neg (Nat.not_lt.mpr hfits))

/-- R160 where the store address exists (10_state.md R50 item 3). -/
theorem exec_actPayload_of_bounds {s : State} (b : Byte) (hpos : 1 ≤ s.remaining.toNat)
    (hle : s.remaining.toNat ≤ s.rxLen.toNat) (hcap : s.rxLen.toNat ≤ s.params.payloadCap) :
    exec (.actPayload b) s = .next { s with
      pl := Mem.set s.pl (s.rxLen.toNat - s.remaining.toNat) b
      remaining := s.remaining - 1, rxValid := false
      dstate := if s.remaining - 1 = 0 then .checksumLow else s.dstate
      result := .stepped true false } := by
  have hzero : s.remaining ≠ 0 := fun h => by simp [h] at hpos
  have haddr : s.rxLen.toNat - s.remaining.toNat < s.params.payloadCap := by omega
  simp only [exec, execActPayload, if_neg hzero, if_neg (Nat.not_lt.mpr hle), writePl_ok b haddr]
  rfl

/-- R161. -/
theorem exec_actChecksumLow (s : State) (b : Byte) :
    exec (.actChecksumLow b) s = .next { s with
      rxCk := withLowByte s.rxCk b, rxValid := false, dstate := .checksumHigh, result := .stepped true false } := rfl

/-- R162. -/
theorem exec_actChecksumHigh (s : State) (b : Byte) :
    exec (.actChecksumHigh b) s = .next { s with
      rxCk := withHighByte s.rxCk b, rxValid := true, dstate := .awaitSync0, result := .stepped true true } := rfl

/-! The obligations. -/

/-- Settles O25: the three cases of the assembled length. -/
theorem lengthHighBoundsTheLength : Obligations.LengthHighBoundsTheLength := by
  intro s b
  have hdiv := withHighByte_toNat_div s.rxLen b
  have hmod := withHighByte_toNat_mod s.rxLen b
  by_cases hzero : withHighByte s.rxLen b = 0
  case pos =>
    exact ⟨_, exec_actLengthHigh_of_zero hzero, hdiv, hmod, rfl, fun _ => ⟨rfl, rfl, rfl⟩,
      fun h => absurd hzero h, fun h => absurd hzero h, rfl, sameBytes_of rfl rfl rfl rfl⟩
  case neg =>
    rcases Nat.lt_or_ge s.params.payloadCap (withHighByte s.rxLen b).toNat with hlong | hfits
    · exact ⟨_, exec_actLengthHigh_of_tooLong hlong, hdiv, hmod, rfl, fun h => absurd h hzero,
        fun _ _ => ⟨rfl, setLenRej_getLsbD_lenRej s.status, setLenRej_getLsbD_qOvf s.status, rfl⟩,
        fun _ h => absurd hlong (Nat.not_lt.mpr h), rfl, sameBytes_of rfl rfl rfl rfl⟩
    · exact ⟨_, exec_actLengthHigh_of_fits hzero hfits, hdiv, hmod, rfl, fun h => absurd h hzero,
        fun _ h => absurd h (Nat.not_lt.mpr hfits), fun _ _ => ⟨rfl, rfl, rfl⟩, rfl,
        sameBytes_of rfl rfl rfl rfl⟩

/-- Settles O26: the action is one store to `PL`, whose byte reads back by read-after-write. -/
theorem payloadByteIsStoredInOrder : Obligations.PayloadByteIsStoredInOrder := by
  intro s b hd hpos hle hcap
  have hlast : s.remaining - 1 = 0 ↔ s.remaining.toNat = 1 := by bv_omega
  refine ⟨_, exec_actPayload_of_bounds b hpos hle hcap, ?stored, ?counted, ?dstate, rfl, ?otherPl, ?qb, ?txm⟩
  case stored => exact (byteAt_setPl s _ _ b).trans (if_pos rfl)
  case counted => show (s.remaining - 1).toNat = s.remaining.toNat - 1; bv_omega
  case dstate => simp only [hlast, hd]
  case otherPl => exact fun a ha => (byteAt_setPl s _ a b).trans (if_neg ha)
  case qb => exact fun a _ => byteAt_congr (space := .qb) rfl rfl a
  case txm => exact fun a _ => byteAt_congr (space := .txm) rfl rfl a

/-- Settles O21: `SYNC0` is marked with the step's tick, and no other byte has an effect. -/
theorem awaitSync0TakesOnlySync0 : Obligations.AwaitSync0TakesOnlySync0 := by
  intro s tick b
  by_cases hb : b = s.params.sync0
  case pos =>
    exact ⟨_, exec_actAwaitSync0_of_sync0 tick hb, fun _ => rfl, fun h => absurd hb h, sameBytes_of rfl rfl rfl rfl⟩
  case neg =>
    exact ⟨_, exec_actAwaitSync0_of_other tick hb, fun h => absurd h hb, fun _ => rfl, sameBytes_of rfl rfl rfl rfl⟩

/-- Settles O22: the action's answer decides the state by `SYNC1` alone. -/
theorem awaitSync1TakesSync1OrFallsBack : Obligations.AwaitSync1TakesSync1OrFallsBack :=
  fun s b => ⟨_, exec_actAwaitSync1 s b, rfl, rfl, sameBytes_of rfl rfl rfl rfl⟩

/-- Settles O23: each action replaces one half of `RX_ID` and keeps the other. -/
theorem identifierBytesFillTheirHalves : Obligations.IdentifierBytesFillTheirHalves := by
  refine ⟨fun s b => ?low, fun s b => ?high⟩
  case low =>
    exact ⟨_, exec_actIdentifierLow s b, withLowByte_toNat_mod s.rxId b, withLowByte_toNat_div s.rxId b, rfl, rfl,
      sameBytes_of rfl rfl rfl rfl⟩
  case high =>
    exact ⟨_, exec_actIdentifierHigh s b, withHighByte_toNat_div s.rxId b, withHighByte_toNat_mod s.rxId b, rfl, rfl,
      sameBytes_of rfl rfl rfl rfl⟩

/-- Settles O24: the action replaces the low half of `RX_LEN` and keeps the high one. -/
theorem lengthLowFillsItsHalf : Obligations.LengthLowFillsItsHalf :=
  fun s b => ⟨_, exec_actLengthLow s b, withLowByte_toNat_mod s.rxLen b, withLowByte_toNat_div s.rxLen b, rfl, rfl,
    sameBytes_of rfl rfl rfl rfl⟩

/-- Settles O27: each action replaces one half of `RX_CK` and keeps the other; the second answers `complete`. -/
theorem checksumBytesCompleteTheFrame : Obligations.ChecksumBytesCompleteTheFrame := by
  refine ⟨fun s b => ?low, fun s b => ?high⟩
  case low =>
    exact ⟨_, exec_actChecksumLow s b, withLowByte_toNat_mod s.rxCk b, withLowByte_toNat_div s.rxCk b, rfl, rfl,
      sameBytes_of rfl rfl rfl rfl⟩
  case high =>
    exact ⟨_, exec_actChecksumHigh s b, withHighByte_toNat_div s.rxCk b, withHighByte_toNat_mod s.rxCk b, rfl, rfl,
      sameBytes_of rfl rfl rfl rfl⟩

end Sys2Proof.Machine
end

section
/-! `DEC_STEP` against its timeout, `DEC_RESET` and `MSG_READ` (41_frame_decoder.md R153, R163, R164). -/

namespace Sys2Proof.Machine

/-! The timeout check of `DEC_STEP`. -/

/-- The elapsed ticks without the wrapping subtraction: a tick below `T_MARK` has wrapped once (R153 item 3). -/
theorem elapsed_eq {s : State} {tick : Nat} (hmark : s.tMark < 2 ^ s.params.tickW) (htick : tick < 2 ^ s.params.tickW) :
    s.elapsed tick = if s.tMark ≤ tick then tick - s.tMark else tick + 2 ^ s.params.tickW - s.tMark := by
  unfold State.elapsed
  generalize 2 ^ s.params.tickW = ticks at *
  split
  case isTrue hle => rw [Int.emod_eq_of_lt (by omega) (by omega)]; omega
  case isFalse hlt => rw [← Int.add_emod_right, Int.emod_eq_of_lt (by omega) (by omega)]; omega

theorem timedOut_eq_true_iff {s : State} {tick : Nat} :
    s.timedOut tick = true ↔ s.dstate ≠ .awaitSync0 ∧ s.params.resyncTicks < s.elapsed tick := by
  simp [State.timedOut]

theorem resyncCheck_of_timedOut {s : State} {tick : Nat} (h : s.timedOut tick = true) :
    resyncCheck tick s = { s with dstate := .awaitSync0, events := s.events ++ [.resync] } := if_pos h

theorem resyncCheck_of_not_timedOut {s : State} {tick : Nat} (h : ¬ s.timedOut tick = true) :
    resyncCheck tick s = s := if_neg h

/-- After its timeout check `DEC_STEP` uses nothing more of the state it began in. -/
theorem execDecStep_congr {s s' : State} {tick : Nat} (h : resyncCheck tick s = resyncCheck tick s') :
    execDecStep tick s = execDecStep tick s' := by simp only [execDecStep, h]

/-- Reading a byte leaves the decoder's state and the events alone. -/
theorem tryReadByte_frame {s t : State} {r : Option Byte} (h : tryReadByte s = some (r, t)) :
    t.dstate = s.dstate ∧ t.events = s.events := by
  rcases tryReadByte_cases h with ⟨-, rfl⟩ | ⟨b, -, -, -, -, -, rfl⟩ | ⟨b, rest, -, -, -, rfl⟩ <;> exact ⟨rfl, rfl⟩

/-- The byte actions use the tick in `AwaitSync0` only (R154). -/
theorem byteAction_tick_irrelevant {s : State} (h : s.dstate ≠ .awaitSync0) (tick tick' : Nat) (b : Byte) :
    byteAction tick b s = byteAction tick' b s := by
  unfold byteAction
  split
  next hd => exact absurd hd h
  all_goals rfl

/-- Mid-frame, two ticks that are both in time make the same step. -/
theorem execDecStep_tick_irrelevant {s : State} {tick tick' : Nat} (hd : s.dstate ≠ .awaitSync0)
    (h : ¬ s.timedOut tick = true) (h' : ¬ s.timedOut tick' = true) : execDecStep tick s = execDecStep tick' s := by
  unfold execDecStep
  rw [resyncCheck_of_not_timedOut h, resyncCheck_of_not_timedOut h']
  split
  · rfl
  · rfl
  next b t hread =>
    exact byteAction_tick_irrelevant (by rwa [(tryReadByte_frame hread).1]) tick tick' b

/-- The only event of a byte action is the length rejection (R159). -/
theorem byteAction_events {tick : Nat} {b : Byte} {s t : State} (h : byteAction tick b s = .next t) :
    t.events = s.events ∨ t.events = s.events ++ [.lenReject] := by
  obtain ⟨-, ⟨-, -, rfl⟩ | ⟨-, -, rfl⟩ | ⟨-, -, -, he, -⟩ | ⟨-, -, -, ⟨he, -⟩ | he⟩ | ⟨-, he, -⟩ | ⟨-, -, -, he⟩⟩ :=
    byteAction_cases h
  · exact .inl rfl
  · exact .inl rfl
  · exact .inl he
  · exact .inl he
  · exact .inr he
  · exact .inl he
  · exact .inl he

/-- A `DEC_STEP` in time raises no `EV_RESYNC`. -/
theorem execDecStep_events_of_not_timedOut {s t : State} {tick : Nat} (h : ¬ s.timedOut tick = true)
    (e : execDecStep tick s = .next t) : t.events = s.events ∨ t.events = s.events ++ [.lenReject] := by
  obtain ⟨r, u, hread, hact⟩ := execDecStep_cases e
  rw [resyncCheck_of_not_timedOut h] at hread
  rw [← (tryReadByte_frame hread).2]
  rcases hact with ⟨-, rfl⟩ | ⟨b, -, hb⟩
  · exact .inl rfl
  · exact byteAction_events hb

/-- Settles O30: above the threshold the check leaves the state that the claim names, which is idle and so passes its own
check; at or below it the step is in time, as is the step whose tick is `T_MARK` itself. -/
theorem timeoutFiresStrictlyAboveTheThreshold : Obligations.TimeoutFiresStrictlyAboveTheThreshold := by
  intro s tick hd hmark htick elapsed
  have helapsed : s.elapsed tick = elapsed := elapsed_eq hmark htick
  refine ⟨fun hfires => ?fires, fun hle => ?inTime⟩
  case fires =>
    have hout : s.timedOut tick = true := timedOut_eq_true_iff.mpr ⟨hd, helapsed ▸ hfires⟩
    exact execDecStep_congr (resyncCheck_of_timedOut hout)
  case inTime =>
    have hin : ¬ s.timedOut tick = true := fun h =>
      absurd (timedOut_eq_true_iff.mp h).2 (helapsed ▸ Nat.not_lt.mpr hle)
    have hzero : ¬ s.timedOut s.tMark = true := by simp [timedOut_eq_true_iff, State.elapsed]
    exact ⟨execDecStep_tick_irrelevant hd hin hzero, fun t => execDecStep_events_of_not_timedOut hin⟩

/-! `MSG_READ`. -/

theorem readId_of_valid {s : State} (h : s.rxValid = true) : s.readId = s.rxId := if_pos h

theorem readLen_of_valid {s : State} (h : s.rxValid = true) : s.readLen = s.rxLen := if_pos h

theorem readCk_of_valid {s : State} (h : s.rxValid = true) : s.readCk = s.rxCk := if_pos h

theorem readPayload_of_valid {s : State} {i : Nat} (h : s.rxValid = true) (hi : i < s.rxLen.toNat) :
    s.readPayload i = s.byteAt .pl i := if_pos (by simp [State.payloadKnown, h, hi])

/-- R164 for a payload index past the buffer. -/
theorem exec_msgRead_payload_of_outside {s : State} {i : Word16} (h : s.params.payloadCap ≤ i.toNat) :
    exec (.msgRead .payload i) s = .next { s with result := .refused } := if_pos h

/-- R164 for a payload index within the buffer. -/
theorem exec_msgRead_payload_of_inside {s : State} {i : Word16} (h : i.toNat < s.params.payloadCap) :
    exec (.msgRead .payload i) s =
      .next ((s.afterRead (s.payloadKnown i.toNat)).answer (.byte (s.readPayload i.toNat))) :=
  if_neg (Nat.not_le.mpr h)

theorem exec_msgRead_completes (s : State) (sel : MsgSel) (i : Word16) : ∃ t, exec (.msgRead sel i) s = .next t := by
  cases sel
  case id => exact ⟨_, rfl⟩
  case len => exact ⟨_, rfl⟩
  case ck => exact ⟨_, rfl⟩
  case payload =>
    rcases Nat.lt_or_ge i.toNat s.params.payloadCap with h | h
    · exact ⟨_, exec_msgRead_payload_of_inside h⟩
    · exact ⟨_, exec_msgRead_payload_of_outside h⟩

/-- Settles O35: a read that completes changes nothing of the block by its frame, and inside the window each selector
reads its register. -/
theorem msgReadReturnsTheReceivedMessage : Obligations.MsgReadReturnsTheReceivedMessage := by
  intro s sel i
  obtain ⟨t, e⟩ := exec_msgRead_completes s sel i
  have hframe : t = { s with draws := t.draws, result := t.result } := execMsgRead_frame e
  refine ⟨t, e, hframe, ?sameBytes, ?id, ?len, ?ck, ?payload, ?refused⟩
  case sameBytes => rw [hframe]; exact sameBytes_of rfl rfl rfl rfl
  case id => rintro hvalid rfl; cases e; exact congrArg Result.word (readId_of_valid hvalid)
  case len => rintro hvalid rfl; cases e; exact congrArg Result.word (readLen_of_valid hvalid)
  case ck => rintro hvalid rfl; cases e; exact congrArg Result.word (readCk_of_valid hvalid)
  case payload =>
    rintro hvalid rfl hcap hlen
    cases (exec_msgRead_payload_of_inside hcap).symm.trans e
    exact congrArg Result.byte (readPayload_of_valid hvalid hlen)
  case refused =>
    rintro rfl hcap
    cases (exec_msgRead_payload_of_outside hcap).symm.trans e
    rfl

/-! `DEC_RESET`. -/

theorem pastSync_eq_false_iff (d : DState) : d.pastSync = false ↔ d = .awaitSync0 ∨ d = .awaitSync1 := by
  cases d <;> decide

/-- R163. -/
theorem exec_decReset (s : State) :
    exec .decReset s = .next { s with
      dstate := .awaitSync0, rxValid := s.rxValid && !s.dstate.pastSync, result := .done } := rfl

/-- Settles O34: the window bit is kept or cleared by whether the decoder was past `AwaitSync1`. -/
theorem decResetWritesDstateOnly : Obligations.DecResetWritesDstateOnly := by
  intro s
  refine ⟨_, exec_decReset s, rfl, fun hearly => ?kept, fun h0 h1 => ?closed, rfl, sameBytes_of rfl rfl rfl rfl⟩
  case kept => simp [(pastSync_eq_false_iff s.dstate).mpr hearly]
  case closed =>
    have hpast : s.dstate.pastSync ≠ false := fun h => ((pastSync_eq_false_iff s.dstate).mp h).elim h0 h1
    simp [hpast]

end Sys2Proof.Machine
end

section
/-! The Checksum Engine: what each operation answers (42_checksum_engine.md R191 to R196). -/

namespace Sys2Proof.Machine

/-! Each operation's answer. -/

/-- R191. -/
theorem exec_ckInit (s : State) : exec .ckInit s = .next { s with ckA := 0, ckB := 0, result := .done } := rfl

/-- R192. -/
theorem exec_ckUpdate (s : State) (x : Byte) :
    exec (.ckUpdate x) s = .next { s with
      ckA := s.ckA + x, ckB := s.ckB + (s.ckA + x), result := .done } := rfl

/-- R193. -/
theorem exec_ckResult (s : State) :
    exec .ckResult s = .next { s with result := .word (joinBytes s.ckA s.ckB) } := rfl

/-- R195 for an operand within capacity. -/
theorem exec_ckMsg_of_fits {s : State} (id : Word16) {payload : List Byte} (h : payload.length ≤ s.params.payloadCap) :
    exec (.ckMsg id payload) s = .next { s with
      ckA := (ckPair (headerBytes id (lenField payload) ++ payload)).1
      ckB := (ckPair (headerBytes id (lenField payload) ++ payload)).2
      result := .word (messageCk id payload) } := by
  have hfits : ¬ s.tooLong payload = true := by simpa [State.tooLong] using h
  simp only [exec, execCkMsg, if_neg hfits, ckResult_ckMessage]
  rw [ckMessage_eq]
  rfl

/-- R195 for an operand above capacity. -/
theorem exec_ckMsg_of_tooLong {s : State} (id : Word16) {payload : List Byte}
    (h : s.params.payloadCap < payload.length) :
    exec (.ckMsg id payload) s = .next { s with events := s.events ++ [.txReject], result := .rejected } := by
  have hlong : s.tooLong payload = true := decide_eq_true h
  simp only [exec, execCkMsg, if_pos hlong, rejectMessage_eq]

/-! `CK_VERIFY`. -/

/-- Inside the validity window the received message is read as it stands in the registers and `PL` (10_state.md R34). -/
theorem readMessage_of_valid {s : State} (h : s.rxValid = true) :
    s.readMessage =
      { id := s.rxId, len := s.rxLen, payload := (List.range s.rxLen.toNat).map (s.byteAt .pl), ck := s.rxCk } := by
  have hpayload : (List.range s.rxLen.toNat).map s.readPayload = (List.range s.rxLen.toNat).map (s.byteAt .pl) :=
    List.map_congr_left fun _ hi => readPayload_of_valid h (List.mem_range.mp hi)
  rw [State.readMessage, readId_of_valid h, readLen_of_valid h, readCk_of_valid h, hpayload]

theorem checksumMatches_eq_decide (computed carried : Word16) :
    checksumMatches computed carried = decide (computed = carried) := beq_eq_decide ..

/-- `CK_VERIFY` stops only on a received message longer than `PL`, which the validity window rules out. -/
theorem exec_ckVerify_completes {s : State} (h : s.rxValid = true → s.rxLen.toNat ≤ s.params.payloadCap) :
    ∃ t, exec .ckVerify s = .next t := by
  have hinside : ¬ (s.rxValid && decide (s.params.payloadCap < s.rxLen.toNat)) = true := by
    simpa using h
  exact ⟨_, if_neg hinside⟩

/-! The obligations. -/

/-- Settles O43: the two cases of the operand's length against `PAYLOAD_CAP`. -/
theorem ckMsgComputesOrRejects : Obligations.CkMsgComputesOrRejects := by
  intro s id payload
  rcases Nat.lt_or_ge s.params.payloadCap payload.length with hlong | hfits
  · exact ⟨_, exec_ckMsg_of_tooLong id hlong, fun h => absurd hlong (Nat.not_lt.mpr h), fun _ => rfl,
      sameBytes_of rfl rfl rfl rfl⟩
  · exact ⟨_, exec_ckMsg_of_fits id hfits, fun _ => ⟨rfl, rfl, rfl⟩, fun h => absurd h (Nat.not_lt.mpr hfits),
      sameBytes_of rfl rfl rfl rfl⟩

/-- Settles O44: what a completed `CK_VERIFY` answers, with the message it read replaced by the received one inside the
window. -/
theorem ckVerifyComparesWithTheReceivedChecksum : Obligations.CkVerifyComparesWithTheReceivedChecksum := by
  refine ⟨fun s hvalid hlen => ?inside, fun s hinvalid => ?outside⟩
  case inside =>
    obtain ⟨t, e⟩ := exec_ckVerify_completes fun _ => hlen
    obtain ⟨-, ht⟩ := execCkVerify_cases e
    rw [readMessage_of_valid hvalid, if_pos hvalid, checksumMatches_eq_decide] at ht
    subst ht
    exact ⟨_, e, rfl, rfl, rfl, sameBytes_of rfl rfl rfl rfl⟩
  case outside =>
    obtain ⟨t, e⟩ := exec_ckVerify_completes (s := s) fun hvalid => by simp [hinvalid] at hvalid
    obtain ⟨-, ht⟩ := execCkVerify_cases e
    subst ht
    exact ⟨_, e, rfl, sameBytes_of rfl rfl rfl rfl⟩

/-- Settles O40: the accumulators' arithmetic mod 256 is that of 8-bit words, and the result joins them as two halves. -/
theorem checksumPrimitivesFollowTheUpdateLaw : Obligations.ChecksumPrimitivesFollowTheUpdateLaw := by
  refine ⟨fun s => ?init, fun s x => ?update, fun s => ?result⟩
  case init => exact ⟨_, exec_ckInit s, rfl, sameBytes_of rfl rfl rfl rfl⟩
  case update =>
    exact ⟨_, exec_ckUpdate s x, BitVec.toNat_add s.ckA x, BitVec.toNat_add s.ckB (s.ckA + x), rfl,
      sameBytes_of rfl rfl rfl rfl⟩
  case result =>
    have hjoin : (joinBytes s.ckA s.ckB).toNat = s.ckB.toNat * 256 + s.ckA.toNat := by
      rw [joinBytes_toNat, Nat.mul_comm, Nat.add_comm]
    exact ⟨_, _, exec_ckResult s, hjoin, rfl, sameBytes_of rfl rfl rfl rfl⟩

end Sys2Proof.Machine
end

section
/-! The Frame Encoder: what its start and its byte transition answer (43_frame_encoder.md R211 to R213). -/

namespace Sys2Proof.Machine

/-! The payload in `TXM`. -/

/-- An address that `TXM` has can be read (20_memory.md R72). -/
theorem memRead_txm_of_full {s : State} {n k : Nat} (hfull : s.txm.map Prod.fst = List.range n) (hk : k < n) :
    memRead .txm k s = some (s.byteAt .txm k) := by
  have hlen : s.txm.length = n := by simpa using congrArg List.length hfull
  exact if_pos (hk.trans_eq hlen.symm)

/-- The payload laid out in `TXM` reads back byte by byte. -/
theorem memRead_txm_of_ofBytes {s : State} {payload : List Byte} (htxm : s.txm = Mem.ofBytes payload) {k : Nat}
    (hk : k < payload.length) : memRead .txm k s = payload[k]? := by
  have hget : Mem.get? (s.mem .txm) k = some payload[k] := by
    rw [State.mem, htxm, Mem.get?_ofBytes, List.getElem?_eq_getElem hk]
  rw [memRead_txm_of_full (htxm ▸ Mem.ofBytes_map_fst payload) hk, State.byteAt, hget, List.getElem?_eq_getElem hk]

/-! The start transition. -/

/-- R211 for an operand within capacity. -/
theorem exec_encFrame_of_fits {s : State} (id : Word16) {payload : List Byte} (ck : Word16)
    (h : payload.length ≤ s.params.payloadCap) :
    exec (.encFrame id payload ck) s = .next (startFrame id payload ck s) := by
  have hfits : ¬ s.tooLong payload = true := by simpa [State.tooLong] using h
  exact if_neg hfits

/-- R211 for an operand above capacity. -/
theorem exec_encFrame_of_tooLong {s : State} (id : Word16) {payload : List Byte} (ck : Word16)
    (h : s.params.payloadCap < payload.length) :
    exec (.encFrame id payload ck) s = .next { s with events := s.events ++ [.txReject], result := .rejected } :=
  if_pos (decide_eq_true h)

/-! The byte at a frame offset. The offsets below 6 are numerals, at which `encByte` computes. -/

theorem encByte_payload {p : Nat} {s : State} (hlow : 6 ≤ p) (hhigh : p < 6 + s.txLen.toNat) :
    encByte p s = memRead .txm (p - 6) s := by
  simp only [encByte, if_pos hhigh]
  repeat rw [if_neg (by omega)]

theorem encByte_ckLow (s : State) : encByte (6 + s.txLen.toNat) s = some (lowByte s.txCk) := by
  unfold encByte
  repeat rw [if_neg (by omega)]
  exact if_pos rfl

theorem encByte_ckHigh (s : State) : encByte (7 + s.txLen.toNat) s = some (highByte s.txCk) := by
  unfold encByte
  repeat rw [if_neg (by omega)]
  exact if_pos rfl

/-- The frame has a byte at each offset before its end, as `TXM` holds the whole payload (10_state.md R50 item 6). -/
theorem encByte_completes {p : Nat} {s : State} (hpos : p < s.txLen.toNat + 8)
    (hfull : s.txm.map Prod.fst = List.range s.txLen.toNat) : ∃ b, encByte p s = some b := by
  obtain h | ⟨hlow, hhigh⟩ | rfl | rfl :
      p < 6 ∨ (6 ≤ p ∧ p < 6 + s.txLen.toNat) ∨ p = 6 + s.txLen.toNat ∨ p = 7 + s.txLen.toNat := by omega
  · interval_cases p <;> exact ⟨_, rfl⟩
  · exact ⟨_, (encByte_payload hlow hhigh).trans (memRead_txm_of_full hfull (by omega))⟩
  · exact ⟨_, encByte_ckLow s⟩
  · exact ⟨_, encByte_ckHigh s⟩

theorem eq_of_encByte_eq_some {p k : Nat} {s : State} {b c : Byte} (hb : encByte p s = some b) (hp : p = k)
    (hc : encByte k s = some c) : b = c := Option.some.inj (hb.symm.trans (hp ▸ hc))

/-! The byte transition. -/

/-- R212: the byte at `ENC_POS` is sent, and at the end of the frame the send is over. -/
theorem acceptTurn_of_byte {s : State} {b : Byte} (hbusy : s.encBusy = true) (hb : encByte s.encPos.toNat s = some b) :
    acceptTurn s = .next { s with
      sent := s.sent ++ [b]
      encPos := s.encPos + 1
      encBusy := if (s.encPos + 1).toNat = s.txLen.toNat + 8 then false else s.encBusy
      result := if (s.encPos + 1).toNat = s.txLen.toNat + 8 then .ok else s.result } := by
  have hturn : acceptTurn s = encByteTransition s := if_pos hbusy
  simp only [hturn, encByteTransition, hb, writeByte, State.answer]
  by_cases hlast : (s.encPos + 1).toNat = s.txLen.toNat + 8
  case pos => simp only [if_pos hlast]; exact if_pos hlast
  case neg => simp only [if_neg hlast]; exact if_neg hlast

/-- The 17 bits of `ENC_POS` hold every frame offset and the end. -/
theorem encPos_succ_toNat {s : State} (hpos : s.encPos.toNat < s.txLen.toNat + 8) :
    (s.encPos + 1).toNat = s.encPos.toNat + 1 := by
  have := s.txLen.isLt
  bv_omega

/-! The obligations. -/

/-- Settles O46: the two cases of the operand's length against `PAYLOAD_CAP`, which itself fits the 16-bit length
field. -/
theorem encFrameLatchesTheOperand : Obligations.EncFrameLatchesTheOperand := by
  intro s id ck payload ⟨hcap, _⟩
  rcases Nat.lt_or_ge s.params.payloadCap payload.length with hlong | hfits
  case inl =>
    exact ⟨_, exec_encFrame_of_tooLong id ck hlong, fun h => absurd hlong (Nat.not_lt.mpr h),
      fun _ => ⟨rfl, sameBytes_of rfl rfl rfl rfl⟩⟩
  case inr =>
    refine ⟨_, exec_encFrame_of_fits id ck hfits, fun _ => ?latched, fun h => absurd h (Nat.not_lt.mpr hfits)⟩
    have hlen : (lenField payload).toNat = payload.length := lenField_toNat payload (by omega)
    refine ⟨rfl, hlen, rfl, rfl, rfl, fun k hk => ?readable, rfl, ?pl, ?qb⟩
    case readable => exact (memRead_txm_of_ofBytes rfl hk).symm
    case pl => exact fun a _ => byteAt_congr (space := .pl) rfl rfl a
    case qb => exact fun a _ => byteAt_congr (space := .qb) rfl rfl a

/-- Settles O48: the invariant gives the frame a byte at `ENC_POS`, and each row of R213 says which. -/
theorem byteTransitionSendsTheByteAtItsOffset : Obligations.ByteTransitionSendsTheByteAtItsOffset := by
  intro s hbusy hinv
  have hpos := hinv.pos_lt hbusy
  obtain ⟨b, hb⟩ := encByte_completes hpos (hinv.txm_full hbusy)
  refine ⟨_, b, acceptTurn_of_byte hbusy hb, rfl, encPos_succ_toNat hpos, ?sync0, ?sync1, ?idLow, ?idHigh, ?lenLow,
    ?lenHigh, ?payload, ?ckLow, ?ckHigh, ?last, ?more, rfl, sameBytes_of rfl rfl rfl rfl⟩
  case sync0 => exact fun h => eq_of_encByte_eq_some hb h rfl
  case sync1 => exact fun h => eq_of_encByte_eq_some hb h rfl
  case idLow => exact fun h => eq_of_encByte_eq_some hb h rfl ▸ lowByte_toNat s.txId
  case idHigh => exact fun h => eq_of_encByte_eq_some hb h rfl ▸ highByte_toNat s.txId
  case lenLow => exact fun h => eq_of_encByte_eq_some hb h rfl ▸ lowByte_toNat s.txLen
  case lenHigh => exact fun h => eq_of_encByte_eq_some hb h rfl ▸ highByte_toNat s.txLen
  case payload => exact fun hlow hhigh => (encByte_payload hlow hhigh).symm.trans hb
  case ckLow => exact fun h => eq_of_encByte_eq_some hb h (encByte_ckLow s) ▸ lowByte_toNat s.txCk
  case ckHigh => exact fun h => eq_of_encByte_eq_some hb h (encByte_ckHigh s) ▸ highByte_toNat s.txCk
  case last => exact fun h => ⟨if_pos h, if_pos h⟩
  case more => exact fun h => ⟨(if_neg h).trans hbusy, if_neg h⟩

end Sys2Proof.Machine
end

section
/-! The code of an operation and back (30_encoding.md R100, R107 to R109; log 1). -/

namespace Sys2Proof

open Sys2Proof.Machine

/-! What each row of the table decodes to. -/

/-- An `OP` row's code byte has its format in the upper half and `opsel` in the lower. -/
theorem decode_op (p : Params) {op : Byte} (bs : List Byte) (hformat : op.toNat / 16 = 0) :
    decode p (op :: bs) = decodeOp p (op.toNat % 16) bs := by simp only [decode, hformat]

theorem decode_action (p : Params) {op : Byte} (bs : List Byte) (hformat : op.toNat / 16 = 1) :
    decode p (op :: bs) = decodeAction p (op.toNat % 16) bs := by simp only [decode, hformat]

theorem decode_frame (p : Params) {op : Byte} (bs : List Byte) (hformat : op.toNat / 16 = 2)
    (hcode : op.toNat % 16 = 0) : decode p (op :: bs) = decodeFrame p bs := by
  simp only [decode, hformat, hcode, if_pos]

theorem decode_wire_reserved (p : Params) {op : Byte} (bs : List Byte) (hformat : op.toNat / 16 = 2)
    (hcode : op.toNat % 16 ≠ 0) : decode p (op :: bs) = .error .reservedCode := by
  simp only [decode, hformat, if_neg hcode]

theorem decode_reserved_format (p : Params) {op : Byte} (bs : List Byte) (hformat : 3 ≤ op.toNat / 16) :
    decode p (op :: bs) = .error .reservedCode := by
  obtain ⟨n, hn⟩ := Nat.exists_eq_add_of_le' hformat
  simp only [decode, hn]

/-- The reserved decoder state codes are read as code 0 (R108 item 1). -/
theorem decodeAction_reserved (p : Params) {code : Nat} (bs : List Byte) (hcode : 9 ≤ code) :
    decodeAction p code bs = decodeAction p 0 bs := by
  obtain ⟨n, rfl⟩ := Nat.exists_eq_add_of_le' hcode
  rfl

/-- A frame on the wire is read back as its message and checksum. -/
theorem decodeFrame_frameBytes (p : Params) (id : Word16) (payload : List Byte) (ck : Word16) (rest : List Byte)
    (h : payloadFits payload = true) :
    decodeFrame p (frameBytes p.sync0 p.sync1 id payload ck ++ rest) = .ok (.frame id payload ck, rest) := by
  simp only [frameBytes_eq, List.cons_append, List.append_assoc, decodeFrame, readByte_cons, thenRead_ok, and_self,
    if_true, readMessage_encode _ _ _ h, readWord16_encode]

/-- Settles O1: the code byte selects the operation's row, whose operand readers read back what was encoded. -/
theorem decodeOfEncodeIsTheOperation : Obligations.DecodeOfEncodeIsTheOperation := by
  intro p i rest hwf
  cases i with
  | statusClear mask =>
    show decodeOp p 4 (mask.setWidth 8 :: rest) = _
    simp only [decodeOp, readMask_encode, thenRead_ok]
  | decStep tick =>
    show decodeOp p 5 (encodeTick p tick ++ rest) = _
    simp only [decodeOp, readTick_encode p tick rest hwf, thenRead_ok]
  | msgRead sel i =>
    show decodeOp p 7 (encodeSel sel :: (encodeWord16 i ++ rest)) = _
    simp only [decodeOp, readSel_encode, thenRead_ok, readWord16_encode]
  | ckMsg id payload =>
    show decodeOp p 11 (encodeWord16 id ++ encodePayload payload ++ rest) = _
    simp only [decodeOp, List.append_assoc, readMessage_encode _ _ _ hwf, thenRead_ok]
  | encFrame id payload ck =>
    show decodeOp p 13 (encodeWord16 id ++ encodePayload payload ++ encodeWord16 ck ++ rest) = _
    simp only [decodeOp, List.append_assoc, readMessage_encode _ _ _ hwf, thenRead_ok, readWord16_encode]
  | txSend id payload =>
    show decodeOp p 14 (encodeWord16 id ++ encodePayload payload ++ rest) = _
    simp only [decodeOp, List.append_assoc, readMessage_encode _ _ _ hwf, thenRead_ok]
  | txSendEmpty id =>
    show decodeOp p 15 (encodeWord16 id ++ rest) = _
    simp only [decodeOp, readWord16_encode, thenRead_ok]
  | actAwaitSync0 tick b =>
    show decodeAction p 0 (encodeTick p tick ++ [b] ++ rest) = _
    simp only [decodeAction, List.append_assoc, readTick_encode p tick _ hwf, thenRead_ok, List.singleton_append,
      readByte_cons]
  | frame id payload ck => exact decodeFrame_frameBytes p id payload ck rest hwf
  | _ => rfl

/-- What a code decodes to is read by the reader of its row's operands. -/
theorem decode_reads_behind_code (p : Params) (op : Byte) :
    Reads (fun bs => decode p (op :: bs)) fun i => i.wellFormed p = true := by
  by_cases hop : op.toNat / 16 = 0
  · simpa only [decode_op p _ hop] using decodeOp_reads p _
  by_cases hact : op.toNat / 16 = 1
  · simpa only [decode_action p _ hact] using decodeAction_reads p _
  by_cases hwire : op.toNat / 16 = 2
  · by_cases hcode : op.toNat % 16 = 0
    · simpa only [decode_frame p _ hwire hcode] using decodeFrame_reads p
    · simpa only [decode_wire_reserved p _ hwire hcode] using reads_error _
  · simpa only [decode_reserved_format p (op := op) _ (by omega)] using reads_error _

/-- Settles O2: the prefix is the code byte and what the row's operand reader took. -/
theorem decodeReadsAWellFormedPrefix : Obligations.DecodeReadsAWellFormedPrefix := by
  intro p bs rest i h
  match bs, h with
  | op :: bs, h =>
    obtain ⟨hwf, used, rfl, hused⟩ := decode_reads_behind_code p op bs i rest h
    exact ⟨hwf, op :: used, List.cons_ne_nil op used, rfl, hused⟩

/-- Settles O3: the upper half of the code byte names no format, or the format has no such row; a reserved state code is
read by the default row of the byte actions. -/
theorem reservedCodesRefusedOrAwaitSync0 : Obligations.ReservedCodesRefusedOrAwaitSync0 := by
  refine ⟨fun p op bs h => ?refused, fun p op bs hformat hcode => ?awaitSync0⟩
  case refused =>
    rcases h with hformat | ⟨hformat, hcode⟩
    · exact decode_reserved_format p bs hformat
    · exact decode_wire_reserved p bs hformat hcode
  case awaitSync0 => rw [decode_action p bs hformat, decodeAction_reserved p bs hcode]; rfl

/-- Settles O4: each code is evaluated. -/
theorem writtenOutCodesDecode : Obligations.WrittenOutCodesDecode := ⟨rfl, rfl, rfl, rfl, rfl, rfl⟩

end Sys2Proof
end

section
/-! The receive queue as a first-in first-out list (20_memory.md R76, R82; 40_receive_queue.md R136). -/

namespace Sys2Proof.Machine

/-! The queue's invariant. -/

/-- The queue's invariant is about its registers and capacity alone. -/
theorem QueueInv.congr {s t : State} (h : QueueInv s) (hparams : t.params = s.params) (hcount : t.qCount = s.qCount)
    (hin : t.qIn = s.qIn) (hout : t.qOut = s.qOut) : QueueInv t where
  count_le := by rw [hparams, hcount]; exact h.count_le
  in_lt := by rw [hparams, hin]; exact h.in_lt
  out_lt := by rw [hparams, hout]; exact h.out_lt
  cursors := by rw [hparams, hcount, hin, hout]; exact h.cursors

theorem QueueInv.queueCap_pos {s : State} (h : QueueInv s) : 0 < s.params.queueCap := Nat.zero_lt_of_lt h.in_lt

/-- R131 keeps the invariant. -/
theorem QueueInv.push {s : State} (h : QueueInv s) (hroom : s.qCount < s.params.queueCap) (x : Byte) :
    QueueInv { s with
      qb := Mem.set s.qb s.qIn x, qIn := (s.qIn + 1) % s.params.queueCap, qCount := s.qCount + 1 } where
  count_le := hroom
  in_lt := Nat.mod_lt _ h.queueCap_pos
  out_lt := h.out_lt
  cursors := by
    show (s.qOut + (s.qCount + 1)) % s.params.queueCap = (s.qIn + 1) % s.params.queueCap
    rw [← h.cursors, Nat.mod_add_mod, Nat.add_assoc]

/-- R133 keeps the invariant. -/
theorem QueueInv.pop {s : State} (h : QueueInv s) (hbyte : s.qCount ≠ 0) :
    QueueInv { s with qOut := (s.qOut + 1) % s.params.queueCap, qCount := s.qCount - 1 } where
  count_le := (Nat.sub_le _ _).trans h.count_le
  in_lt := h.in_lt
  out_lt := Nat.mod_lt _ h.queueCap_pos
  cursors := by
    show ((s.qOut + 1) % s.params.queueCap + (s.qCount - 1)) % s.params.queueCap = s.qIn
    rw [Nat.mod_add_mod, ← h.cursors]
    congr 1
    omega

/-- The cursors differ while the queue is neither empty nor full. -/
theorem QueueInv.out_ne_in {s : State} (h : QueueInv s) (hbyte : 0 < s.qCount) (hroom : s.qCount < s.params.queueCap) :
    s.qOut ≠ s.qIn := by
  intro heq
  have hout := h.out_lt
  have hcursors := h.cursors
  rw [← heq] at hcursors
  rcases Nat.lt_or_ge (s.qOut + s.qCount) s.params.queueCap with hlt | hge
  · rw [Nat.mod_eq_of_lt hlt] at hcursors; omega
  · rw [Nat.mod_eq_sub_mod hge, Nat.mod_eq_of_lt (by omega)] at hcursors; omega

/-! The live bytes. -/

theorem queueBytes_length (s : State) : (queueBytes s).length = s.qCount := by simp [queueBytes]

theorem queueBytes_of_empty {s : State} (hempty : s.qCount = 0) : queueBytes s = [] := by
  simp [queueBytes, hempty]

/-- The oldest live byte is the one at `Q_OUT`, and a pop leaves the others. -/
theorem queueBytes_of_byte {s : State} (h : QueueInv s) (hbyte : s.qCount ≠ 0) :
    queueBytes s = s.byteAt .qb s.qOut ::
      queueBytes { s with qOut := (s.qOut + 1) % s.params.queueCap, qCount := s.qCount - 1 } := by
  rw [queueBytes_pop hbyte, Nat.mod_eq_of_lt h.out_lt]

/-! The obligations. -/

/-- Settles O19: a push and a pop each have two cases, and in each the list of live bytes and the invariant follow from the
two laws of the case. -/
theorem queueIsAFifoList : Obligations.QueueIsAFifoList := by
  intro s h
  refine ⟨queueBytes_length s, fun x => ?push, ?pop⟩
  case push =>
    rcases Nat.lt_or_ge s.qCount s.params.queueCap with hroom | hfull
    · exact ⟨_, exec_qPush_of_room x hroom h.in_lt, h.push hroom x, by rw [if_pos hroom, queueBytes_push h hroom]⟩
    · exact ⟨_, exec_qPush_of_full x hfull, h.congr rfl rfl rfl rfl, by
        rw [if_neg (Nat.not_lt.mpr hfull)]; exact queueBytes_congr rfl rfl rfl rfl rfl⟩
  case pop =>
    by_cases hempty : s.qCount = 0
    case pos =>
      have hbytes : queueBytes s = [] := queueBytes_of_empty hempty
      exact ⟨_, exec_qPop_of_empty hempty, h.congr rfl rfl rfl rfl, by rw [hbytes]; rfl, by
        rw [hbytes]; exact queueBytes_of_empty hempty⟩
    case neg =>
      have hbytes := queueBytes_of_byte h hempty
      exact ⟨_, exec_qPop_of_byte hempty h.out_lt, (h.pop hempty).congr rfl rfl rfl rfl, by rw [hbytes]; rfl, by
        rw [hbytes]; exact queueBytes_congr rfl rfl rfl rfl rfl⟩

/-- Settles O20: the pop reads `QB` at `Q_OUT` and the push stores at `Q_IN`, two different addresses. -/
theorem pushAndPopCommute : Obligations.PushAndPopCommute := by
  intro s x h hbyte hroom
  have hread : { s with
      qb := Mem.set s.qb s.qIn x, qIn := (s.qIn + 1) % s.params.queueCap
      qCount := s.qCount + 1 }.byteAt .qb s.qOut = s.byteAt .qb s.qOut :=
    (byteAt_setQb s s.qIn s.qOut x).trans (if_neg (h.out_ne_in hbyte hroom))
  have hcount : s.qCount - 1 + 1 = s.qCount := Nat.sub_add_cancel hbyte
  refine ⟨_, _, { s with
      qb := Mem.set s.qb s.qIn x, qIn := (s.qIn + 1) % s.params.queueCap, qOut := (s.qOut + 1) % s.params.queueCap
      result := .popped (some (s.byteAt .qb s.qOut)) },
    exec_qPush_of_room x hroom h.in_lt, ?popSecond, exec_qPop_of_byte (Nat.ne_of_gt hbyte) h.out_lt, ?pushSecond, rfl⟩
  case popSecond =>
    rw [← hread]
    exact exec_qPop_of_byte (Nat.succ_ne_zero _) h.out_lt
  case pushSecond =>
    refine .trans (exec_qPush_of_room x ?_ h.in_lt) ?_
    · exact (Nat.sub_le _ _).trans_lt hroom
    · simp only [hcount]

end Sys2Proof.Machine
end

section
/-! The decoder's invariant (10_state.md R50 items 3 and 5), and the operation that a decoder state selects. -/

namespace Sys2Proof.Machine

/-- The decoder's invariant is about its registers and the buffer's size alone. -/
theorem DecoderInv.congr {s t : State} (h : DecoderInv s) (hparams : t.params = s.params) (hdstate : t.dstate = s.dstate)
    (hremaining : t.remaining = s.remaining) (hlen : t.rxLen = s.rxLen) (hmark : t.tMark = s.tMark) : DecoderInv t where
  payload := by rw [hparams, hdstate, hremaining, hlen]; exact h.payload
  checksum := by rw [hparams, hdstate, hremaining, hlen]; exact h.checksum
  mark_lt := by rw [hparams, hmark]; exact h.mark_lt

/-- A decoder state in which no message bytes are being counted asks only for `T_MARK`. -/
theorem DecoderInv.of_not_counting {s : State} (hmark : s.tMark < 2 ^ s.params.tickW) (hpayload : s.dstate ≠ .payload)
    (hlow : s.dstate ≠ .checksumLow) (hhigh : s.dstate ≠ .checksumHigh) : DecoderInv s where
  payload h := absurd h hpayload
  checksum h := (h.elim hlow hhigh).elim
  mark_lt := hmark

/-- Part 1 of `DEC_STEP` keeps the decoder's invariant. -/
theorem DecoderInv.resyncCheck {s : State} (h : DecoderInv s) (tick : Nat) : DecoderInv (resyncCheck tick s) := by
  rcases resyncCheck_cases tick s with ⟨-, heq⟩ | ⟨-, -, -, heq⟩ <;> rw [heq]
  · exact h
  · exact .of_not_counting h.mark_lt nofun nofun nofun

/-- With the decoder's invariant the selected action has a meaning: only `Payload` can stop, and its store address
exists. -/
theorem byteAction_completes {s : State} (h : DecoderInv s) (tick : Nat) (b : Byte) :
    ∃ t, byteAction tick b s = .next t := by
  rw [← exec_actionFor s.dstate tick b s rfl]
  cases hd : s.dstate with
  | awaitSync0 =>
    by_cases hb : b = s.params.sync0
    · exact ⟨_, exec_actAwaitSync0_of_sync0 tick hb⟩
    · exact ⟨_, exec_actAwaitSync0_of_other tick hb⟩
  | awaitSync1 => exact ⟨_, exec_actAwaitSync1 s b⟩
  | identifierLow => exact ⟨_, exec_actIdentifierLow s b⟩
  | identifierHigh => exact ⟨_, exec_actIdentifierHigh s b⟩
  | lengthLow => exact ⟨_, exec_actLengthLow s b⟩
  | lengthHigh => exact (lengthHighBoundsTheLength s b).imp fun _ h => h.1
  | payload =>
    obtain ⟨hpos, hle, hcap⟩ := h.payload hd
    exact ⟨_, exec_actPayload_of_bounds b hpos hle hcap⟩
  | checksumLow => exact ⟨_, exec_actChecksumLow s b⟩
  | checksumHigh => exact ⟨_, exec_actChecksumHigh s b⟩

/-- Every byte action says that it consumed its byte. -/
theorem byteAction_result {tick : Nat} {b : Byte} {s t : State} (h : byteAction tick b s = .next t) :
    ∃ complete, t.result = .stepped true complete := by
  obtain ⟨-, ⟨-, -, rfl⟩ | ⟨-, -, rfl⟩ | ⟨-, hr, -⟩ | ⟨-, hr, -⟩ | ⟨-, -, rfl⟩ | ⟨hr, -⟩⟩ := byteAction_cases h
  exacts [⟨_, rfl⟩, ⟨_, rfl⟩, ⟨_, hr⟩, ⟨_, hr⟩, ⟨_, rfl⟩, ⟨_, hr⟩]

/-- The operations that need a decoder state to select them are its actions (30_encoding.md R107). -/
theorem exists_actionFor_of_actionState {i : Instr} {d : DState} (h : actionState i = some d) :
    ∃ tick b, i = actionFor d tick b := by
  cases i <;> simp only [actionState, reduceCtorEq, Option.some.injEq] at h
  case actAwaitSync0 tick b => exact ⟨tick, b, by rw [← h]; rfl⟩
  all_goals exact ⟨0, _, by rw [← h]; rfl⟩

theorem selected_of_actionState_none {i : Instr} (s : State) (h : actionState i = none) : selected i s = true := by
  simp only [selected, h]

/-- A selected action is the one on the consumed byte inside `DEC_STEP`. -/
theorem exists_byteAction_of_selected {i : Instr} {d : DState} {s : State} (h : actionState i = some d)
    (hsel : selected i s = true) :
    s.dstate = d ∧ ∃ tick b, i = actionFor d tick b ∧ exec i s = byteAction tick b s := by
  have hd : s.dstate = d := by simpa [selected, h] using hsel
  obtain ⟨tick, b, rfl⟩ := exists_actionFor_of_actionState h
  exact ⟨hd, tick, b, rfl, exec_actionFor d tick b s hd⟩

end Sys2Proof.Machine
end

section
/-! `DEC_STEP` (41_frame_decoder.md R151 to R153): the byte it takes and what it does with it. -/

namespace Sys2Proof.Machine

/-! Reading a byte. -/

theorem tryReadByte_of_no_byte {s : State} (h : QueueInv s) (hpending : pendingBytes s = []) :
    tryReadByte s = some (none, s) := by
  obtain ⟨r, u, hread⟩ := tryReadByte_ok h
  obtain ⟨-, ⟨rfl, -, rfl⟩ | ⟨b, -, hbyte⟩⟩ := tryReadByte_pending hread
  · exact hread
  · rw [hpending] at hbyte; cases hbyte

/-- R152: the oldest pending byte is read, from the queue alone or from the transport alone. -/
theorem tryReadByte_of_byte {s : State} {b : Byte} {rest : List Byte} (h : QueueInv s)
    (hpending : pendingBytes s = b :: rest) :
    ∃ u, tryReadByte s = some (some b, u) ∧ pendingBytes u = rest ∧
      (s.cfgTransport = .serialQueued →
        u = { s with qOut := (s.qOut + 1) % s.params.queueCap, qCount := s.qCount - 1 }) ∧
      (s.cfgTransport = .usbDirect → u = { s with line := rest }) := by
  obtain ⟨r, u, hread⟩ := tryReadByte_ok h
  obtain ⟨-, ⟨-, hnone, -⟩ | ⟨c, rfl, hbyte⟩⟩ := tryReadByte_pending hread
  · rw [hpending] at hnone; cases hnone
  · obtain ⟨rfl, hrest⟩ := List.cons.inj (hpending.symm.trans hbyte)
    refine ⟨u, hread, hrest.symm, fun hserial => ?_, fun husb => ?_⟩
    · obtain ⟨hr, -⟩ | ⟨-, -, -, -, -, -, hu⟩ | ⟨-, -, -, husb, -⟩ := tryReadByte_cases hread
      · cases hr
      · exact hu
      · rw [hserial] at husb; cases husb
    · obtain ⟨hr, -⟩ | ⟨-, -, hserial, -⟩ | ⟨_, _, -, -, hline, hu⟩ := tryReadByte_cases hread
      · cases hr
      · rw [husb] at hserial; cases hserial
      · have : pendingBytes s = s.line := by simp only [pendingBytes, husb]
        rw [this, hline] at hpending
        rw [hu, (List.cons.inj hpending).2]

/-! The timeout check touches nothing of the queue, and the action on a byte neither. -/

theorem pendingBytes_resyncCheck (tick : Nat) (s : State) : pendingBytes (resyncCheck tick s) = pendingBytes s := by
  rcases resyncCheck_cases tick s with ⟨-, heq⟩ | ⟨-, -, -, heq⟩ <;> rw [heq]
  exact pendingBytes_congr rfl rfl rfl rfl rfl rfl rfl

theorem QueueInv.resyncCheck {s : State} (h : QueueInv s) (tick : Nat) : QueueInv (resyncCheck tick s) := by
  rcases resyncCheck_cases tick s with ⟨-, heq⟩ | ⟨-, -, -, heq⟩ <;> rw [heq]
  · exact h
  · exact h.congr rfl rfl rfl rfl

theorem pendingBytes_byteAction {tick : Nat} {b : Byte} {s t : State} (h : byteAction tick b s = .next t) :
    pendingBytes t = pendingBytes s := by
  rw [(byteAction_cases h).1]
  exact pendingBytes_congr rfl rfl rfl rfl rfl rfl rfl

/-! The whole step. -/

theorem not_timedOut_iff {s : State} {tick : Nat} :
    ¬ s.timedOut tick = true ↔ s.dstate = .awaitSync0 ∨ s.elapsed tick ≤ s.params.resyncTicks := by
  rw [timedOut_eq_true_iff, not_and_or, not_not, Nat.not_lt]

theorem exec_decStep_of_no_byte {s u : State} {tick : Nat} (h : tryReadByte (resyncCheck tick s) = some (none, u)) :
    exec (.decStep tick) s = .next (u.answer (.stepped false false)) := by
  simp only [exec, execDecStep, h]

theorem exec_decStep_of_byte {s u : State} {tick : Nat} {b : Byte}
    (h : tryReadByte (resyncCheck tick s) = some (some b, u)) : exec (.decStep tick) s = byteAction tick b u := by
  simp only [exec, execDecStep, h]

/-- All that a `DEC_STEP` can do, told by the pending bytes: there are none, or the oldest is taken off the state that the
timeout check left, and acted on. -/
theorem exec_decStep_cases {tick : Nat} {s c t : State} (e : exec (.decStep tick) s = .next t)
    (hcheck : resyncCheck tick s = c) :
    (pendingBytes s = [] ∧ t = c.answer (.stepped false false)) ∨
    ∃ b u, pendingBytes s = b :: pendingBytes t ∧ byteAction tick b u = .next t ∧
      u = { c with qOut := u.qOut, qCount := u.qCount, line := u.line } := by
  subst hcheck
  obtain ⟨r, u, hread, hact⟩ := execDecStep_cases e
  obtain ⟨hframe, hbytes⟩ := tryReadByte_pending hread
  rw [pendingBytes_resyncCheck] at hbytes
  rcases hbytes with ⟨rfl, hnone, rfl⟩ | ⟨b, rfl, hbyte⟩
  · obtain ⟨-, rfl⟩ | ⟨b, hr, -⟩ := hact
    · exact .inl ⟨hnone, rfl⟩
    · cases hr
  · obtain ⟨hr, -⟩ | ⟨c, hr, hact⟩ := hact
    · cases hr
    · cases hr
      exact .inr ⟨b, u, by rw [hbyte, pendingBytes_byteAction hact], hact, hframe⟩

/-- Settles O28: with no timeout due the check leaves the state, and the byte read is acted on as `DSTATE` selects. -/
theorem decStepActsOnOneByte : Obligations.DecStepActsOnOneByte := by
  intro s tick h hin
  have hcheck : resyncCheck tick s = s := resyncCheck_of_not_timedOut (not_timedOut_iff.mpr hin)
  refine ⟨fun hnone => ?none, fun b rest hbyte => ?byte⟩
  case none => exact exec_decStep_of_no_byte (by rw [hcheck]; exact tryReadByte_of_no_byte h hnone)
  case byte =>
    obtain ⟨u, hread, hrest, hserial, husb⟩ := tryReadByte_of_byte h hbyte
    refine ⟨u, ?_, hrest, hserial, husb⟩
    rw [exec_decStep_of_byte (hcheck.symm ▸ hread), exec_actionFor s.dstate tick b u (tryReadByte_frame hread).1]

/-- Settles O29: the read completes by the queue's invariant and the action by the decoder's. -/
theorem decStepCompletes : Obligations.DecStepCompletes := by
  intro s tick h
  cases hpending : pendingBytes s with
  | nil =>
    refine ⟨_, false, exec_decStep_of_no_byte (tryReadByte_of_no_byte (h.queue.resyncCheck tick) ?_), rfl, ?_⟩
    · rw [pendingBytes_resyncCheck, hpending]
    · exact (pendingBytes_congr rfl rfl rfl rfl rfl rfl rfl).trans ((pendingBytes_resyncCheck tick s).trans hpending)
  | cons b rest =>
    obtain ⟨u, hread, hrest, -⟩ :=
      tryReadByte_of_byte (h.queue.resyncCheck tick) ((pendingBytes_resyncCheck tick s).trans hpending)
    have hdecoder : DecoderInv u := by
      rw [(tryReadByte_pending hread).1]
      exact (h.decoder.resyncCheck tick).congr rfl rfl rfl rfl rfl
    obtain ⟨t, hact⟩ := byteAction_completes hdecoder tick b
    obtain ⟨complete, hresult⟩ := byteAction_result hact
    exact ⟨t, complete, (exec_decStep_of_byte hread).trans hact, hresult, (pendingBytes_byteAction hact).trans hrest⟩

/-- Settles O32: the two cases of a step. -/
theorem decStepTakesAtMostOneByte : Obligations.DecStepTakesAtMostOneByte := by
  intro s t tick e
  obtain ⟨hnone, rfl⟩ | ⟨b, u, hbyte, hact, -⟩ := exec_decStep_cases e rfl
  · refine .inl ⟨rfl, hnone, ?_⟩
    exact (pendingBytes_congr rfl rfl rfl rfl rfl rfl rfl).trans ((pendingBytes_resyncCheck tick s).trans hnone)
  · obtain ⟨complete, hresult⟩ := byteAction_result hact
    exact .inr ⟨by rw [hresult]; rfl, b, hbyte⟩

/-- Settles O31: the timeout puts the decoder in `AwaitSync0`, whose action is then done on the byte. -/
theorem byteAfterTimeoutIsASyncCandidate : Obligations.ByteAfterTimeoutIsASyncCandidate := by
  intro s tick b rest h hd hlate hpending
  have hstep : exec (.decStep tick) s =
      exec (.decStep tick) { s with dstate := .awaitSync0, events := s.events ++ [.resync] } :=
    execDecStep_congr (resyncCheck_of_timedOut (timedOut_eq_true_iff.mpr ⟨hd, hlate⟩))
  obtain ⟨u, hact, hrest, hserial, husb⟩ := (decStepActsOnOneByte
    { s with dstate := .awaitSync0, events := s.events ++ [.resync] } tick (h.congr rfl rfl rfl rfl) (.inl rfl)).2 b rest
    ((pendingBytes_congr rfl rfl rfl rfl rfl rfl rfl).trans hpending)
  obtain ⟨hparams, hdstate, hmark⟩ : u.params = s.params ∧ u.dstate = .awaitSync0 ∧ u.tMark = s.tMark := by
    cases hc : s.cfgTransport with
    | serialQueued => rw [hserial hc]; exact ⟨rfl, rfl, rfl⟩
    | usbDirect => rw [husb hc]; exact ⟨rfl, rfl, rfl⟩
  rw [hstep, hact]
  rw [← hparams, ← hmark, ← hrest]
  by_cases hb : b = u.params.sync0
  case pos =>
    exact ⟨_, exec_actAwaitSync0_of_sync0 tick hb, rfl, pendingBytes_congr rfl rfl rfl rfl rfl rfl rfl,
      fun _ => ⟨rfl, rfl⟩, fun hne => absurd hb hne⟩
  case neg =>
    exact ⟨_, exec_actAwaitSync0_of_other tick hb, rfl, pendingBytes_congr rfl rfl rfl rfl rfl rfl rfl,
      fun heq => absurd heq hb, fun _ => ⟨hdstate, rfl⟩⟩

/-- What the timeout check leaves in a decoder that is not idle afterwards: everything. -/
theorem resyncCheck_of_dstate_ne {s : State} {tick : Nat} (h : (resyncCheck tick s).dstate ≠ .awaitSync0) :
    ¬ s.timedOut tick = true ∧ resyncCheck tick s = s := by
  rcases resyncCheck_cases tick s with ⟨hin, heq⟩ | ⟨-, -, -, heq⟩
  · exact ⟨by rw [hin]; exact Bool.false_ne_true, heq⟩
  · rw [heq] at h; exact absurd rfl h

/-! What a single byte action is responsible for. -/

/-- Only the action on the last byte of a frame answers `complete` (R162). -/
theorem byteAction_complete {tick : Nat} {b : Byte} {s t : State} (h : byteAction tick b s = .next t)
    (hcomplete : t.result.complete = true) :
    s.dstate = .checksumHigh ∧ t = { s with
      rxCk := withHighByte s.rxCk b, rxValid := true, dstate := .awaitSync0, result := .stepped true true } := by
  obtain ⟨-, ⟨-, -, rfl⟩ | ⟨-, -, rfl⟩ | ⟨-, hr, -⟩ | ⟨-, hr, -⟩ | ⟨hd, -, ht⟩ | ⟨hr, -⟩⟩ := byteAction_cases h
  · cases hcomplete
  · cases hcomplete
  · rw [hr] at hcomplete; cases hcomplete
  · rw [hr] at hcomplete; cases hcomplete
  · exact ⟨hd, ht⟩
  · rw [hr] at hcomplete; cases hcomplete

/-- Only the action on `SYNC0` in `AwaitSync0` writes `T_MARK` (R154). -/
theorem byteAction_mark {tick : Nat} {b : Byte} {s t : State} (h : byteAction tick b s = .next t)
    (hmark : t.tMark ≠ s.tMark) :
    s.dstate = .awaitSync0 ∧ b = s.params.sync0 ∧
      t = { s with tMark := s.tickReg tick, dstate := .awaitSync1, result := .stepped true false } := by
  obtain ⟨-, hmarked | ⟨-, -, rfl⟩ | ⟨-, -, hm, -⟩ | ⟨-, -, hm, -⟩ | ⟨-, -, rfl⟩ | ⟨-, -, hm, -⟩⟩ := byteAction_cases h
  exacts [hmarked, absurd rfl hmark, absurd hm hmark, absurd hm hmark, absurd rfl hmark, absurd hm hmark]

/-- The three ways in which a byte action gives up or ends a frame (R155, R159, R162). -/
theorem byteAction_to_awaitSync0 {tick : Nat} {b : Byte} {s t : State} (h : byteAction tick b s = .next t)
    (hs : s.dstate ≠ .awaitSync0) (ht : t.dstate = .awaitSync0) :
    (s.dstate = .awaitSync1 ∧ t.result = .stepped true false ∧ b ≠ s.params.sync1) ∨
    (s.dstate = .lengthHigh ∧ t.events = s.events ++ [.lenReject]) ∨
    (s.dstate = .checksumHigh ∧ t.result = .stepped true true) := by
  obtain ⟨-, ⟨hd, -⟩ | ⟨hd, -⟩ | ⟨hd, hr, -, -, hb⟩ | ⟨hd, -, -, ⟨-, hne⟩ | he⟩ | ⟨hd, -, rfl⟩ | ⟨-, hne, -⟩⟩ :=
    byteAction_cases h
  · exact absurd hd hs
  · exact absurd hd hs
  · exact .inl ⟨hd, hr, hb ht⟩
  · exact absurd ht hne
  · exact .inr (.inl ⟨hd, he⟩)
  · exact .inr (.inr ⟨hd, rfl⟩)
  · exact absurd ht hne

/-- In `AwaitSync0` no byte raises an event. -/
theorem byteAction_events_of_awaitSync0 {tick : Nat} {b : Byte} {s t : State} (h : byteAction tick b s = .next t)
    (hs : s.dstate = .awaitSync0) : t.events = s.events := by
  obtain ⟨-, ⟨-, -, rfl⟩ | ⟨-, -, rfl⟩ | ⟨-, -, -, he, -⟩ | ⟨hd, -⟩ | ⟨-, he, -⟩ | ⟨-, -, -, he⟩⟩ := byteAction_cases h
  · rfl
  · rfl
  · exact he
  · rw [hs] at hd; cases hd
  · exact he
  · exact he

/-! The obligations on what a step can have done. -/

/-- Settles O33: only the `ChecksumHigh` action answers `complete`, and a decoder found in that state had no timeout due. -/
theorem completeOnlyFromChecksumHigh : Obligations.CompleteOnlyFromChecksumHigh := by
  intro s t tick e hcomplete
  obtain ⟨-, rfl⟩ | ⟨b, u, hbyte, hact, hu⟩ := exec_decStep_cases e rfl
  · cases hcomplete
  obtain ⟨hd, rfl⟩ := byteAction_complete hact hcomplete
  have hcheckd : (resyncCheck tick s).dstate = .checksumHigh := (congrArg State.dstate hu).symm.trans hd
  obtain ⟨hin, hcheck⟩ := resyncCheck_of_dstate_ne (by rw [hcheckd]; nofun)
  rw [hcheck] at hu hcheckd
  have hle : s.elapsed tick ≤ s.params.resyncTicks :=
    (not_timedOut_iff.mp hin).resolve_left (by rw [hcheckd]; nofun)
  refine ⟨hcheckd, hle, rfl, rfl, (congrArg State.rxId hu :), (congrArg State.rxLen hu :),
    (congrArg State.pl hu :), b, hbyte, ?_⟩
  have hck : u.rxCk = s.rxCk := (congrArg State.rxCk hu :)
  simp only [hck, withHighByte, joinBytes_toNat, lowByte_toNat]

/-- Settles O36: the second byte is judged by `SYNC1` alone, and whichever state it leads to selects the third action. -/
theorem syncBytesAreNotLookedAtTwice : Obligations.SyncBytesAreNotLookedAtTwice := by
  intro s t0 t1 t2 hd
  rw [hd]
  by_cases hsync : s.params.sync0 = s.params.sync1
  case pos =>
    have hsecond := exec_actAwaitSync1
      { s with tMark := s.tickReg t0, dstate := .awaitSync1, result := .stepped true false } s.params.sync0
    rw [if_pos hsync] at hsecond
    exact ⟨_, _, _, exec_actAwaitSync0_of_sync0 t0 rfl, hsecond, exec_actIdentifierLow _ _, fun h => absurd hsync h,
      fun _ => ⟨rfl, rfl, withLowByte_toNat_mod _ _⟩⟩
  case neg =>
    have hsecond := exec_actAwaitSync1
      { s with tMark := s.tickReg t0, dstate := .awaitSync1, result := .stepped true false } s.params.sync0
    rw [if_neg hsync] at hsecond
    exact ⟨_, _, _, exec_actAwaitSync0_of_sync0 t0 rfl, hsecond, exec_actAwaitSync0_of_other t2 (Ne.symm hsync),
      fun _ => rfl, fun h => absurd h hsync⟩

/-- The ways in which a `DEC_STEP` puts the decoder in `AwaitSync0`: its timeout, or the action on the byte it took. -/
theorem exec_decStep_to_awaitSync0 {tick : Nat} {s t : State} (e : exec (.decStep tick) s = .next t)
    (hs : s.dstate ≠ .awaitSync0) (ht : t.dstate = .awaitSync0) :
    (s.params.resyncTicks < s.elapsed tick ∧ t.events = s.events ++ [.resync]) ∨
    (∃ b, pendingBytes s = b :: pendingBytes t ∧
      s.dstate = .awaitSync1 ∧ t.result = .stepped true false ∧ b ≠ s.params.sync1) ∨
    (s.dstate = .lengthHigh ∧ t.events = s.events ++ [.lenReject]) ∨
    (s.dstate = .checksumHigh ∧ t.result = .stepped true true) := by
  rcases resyncCheck_cases tick s with ⟨-, hcheck⟩ | ⟨-, -, hlate, hcheck⟩
  case inl =>
    obtain ⟨-, rfl⟩ | ⟨b, u, hbyte, hact, hu⟩ := exec_decStep_cases e hcheck
    · exact absurd ht hs
    · have hsu : u.dstate = s.dstate := (congrArg State.dstate hu :)
      have hevents : u.events = s.events := (congrArg State.events hu :)
      have hparams : u.params = s.params := (congrArg State.params hu :)
      rw [← hsu, ← hevents, ← hparams]
      exact .inr ((byteAction_to_awaitSync0 hact (hsu ▸ hs) ht).imp_left fun h => ⟨b, hbyte, h⟩)
  case inr =>
    refine .inl ⟨hlate, ?_⟩
    obtain ⟨-, rfl⟩ | ⟨b, u, hbyte, hact, hu⟩ := exec_decStep_cases e hcheck
    · rfl
    · have hidle : u.dstate = .awaitSync0 := (congrArg State.dstate hu :)
      exact (byteAction_events_of_awaitSync0 hact hidle).trans (congrArg State.events hu :)

/-- Settles O37: apart from `RESET` and `DEC_RESET`, only the decoder's operations write `DSTATE`. -/
theorem allTheWaysToAwaitSync0 : Obligations.AllTheWaysToAwaitSync0 := by
  intro i s t hsel e hs ht
  cases haction : actionState i with
  | some d =>
    obtain ⟨hd, tick, b, rfl, hexec⟩ := exists_byteAction_of_selected haction hsel
    rcases byteAction_to_awaitSync0 (hexec ▸ e) hs ht with ⟨hd1, hr, hb⟩ | hlen | hck
    · refine .inr (.inr (.inr (.inl ⟨hd1, hr, b, hb, .inl ?_⟩)))
      rw [← hd, hd1]; rfl
    · exact .inr (.inr (.inr (.inr (.inl hlen))))
    · exact .inr (.inr (.inr (.inr (.inr hck))))
  | none =>
    by_cases hstep : ∃ tick, i = .decStep tick
    case pos =>
      obtain ⟨tick, rfl⟩ := hstep
      rcases exec_decStep_to_awaitSync0 e hs ht with ⟨hlate, hev⟩ | ⟨b, hbyte, hd1, hr, hb⟩ | hlen | hck
      · exact .inr (.inr (.inl ⟨⟨tick, rfl, hlate⟩, hev⟩))
      · exact .inr (.inr (.inr (.inl ⟨hd1, hr, b, hb, .inr ⟨tick, rfl, hbyte⟩⟩)))
      · exact .inr (.inr (.inr (.inr (.inl hlen))))
      · exact .inr (.inr (.inr (.inr (.inr hck))))
    case neg =>
      by_contra hother
      have hreset : i ≠ .reset := fun h => hother (.inl h)
      have hdecReset : i ≠ .decReset := fun h => hother (.inr (.inl h))
      have hframe := exec_frame_of_not_decoder e hreset (fun tick h => hstep ⟨tick, h⟩) haction
      exact hs ((hframe.2 hdecReset).1.symm.trans ht)

/-- Mid-frame a `DEC_STEP` finds itself in `AwaitSync0` only by its timeout. -/
theorem resyncCheck_to_awaitSync0 {s : State} {tick : Nat} (h : (resyncCheck tick s).dstate = .awaitSync0) :
    s.dstate = .awaitSync0 ∨ s.params.resyncTicks < s.elapsed tick := by
  rcases resyncCheck_cases tick s with ⟨-, heq⟩ | ⟨-, -, hlate, -⟩
  · exact .inl (heq ▸ h)
  · exact .inr hlate

theorem resyncCheck_params (tick : Nat) (s : State) : (resyncCheck tick s).params = s.params := by
  rcases resyncCheck_cases tick s with ⟨-, heq⟩ | ⟨-, -, -, heq⟩ <;> rw [heq]

theorem resyncCheck_tMark (tick : Nat) (s : State) : (resyncCheck tick s).tMark = s.tMark := by
  rcases resyncCheck_cases tick s with ⟨-, heq⟩ | ⟨-, -, -, heq⟩ <;> rw [heq]

/-- Settles O38: only the decoder's operations write `T_MARK`, by the action on `SYNC0` in `AwaitSync0`, where a `DEC_STEP`
stands from the start or since its timeout. -/
theorem markIsWrittenOnlyAtSync0 : Obligations.MarkIsWrittenOnlyAtSync0 := by
  intro i s t e hmark
  by_cases hreset : i = .reset
  · exact .inl hreset
  refine .inr ?_
  cases haction : actionState i with
  | some d =>
    obtain ⟨tick, rfl, htick, hd, hr⟩ := (exec_action_cases haction e).2 hmark
    exact ⟨tick, htick, hd, hr, .inl rfl⟩
  | none =>
    by_cases hstep : ∃ tick, i = .decStep tick
    case neg =>
      obtain ⟨hframe, -⟩ := exec_frame_of_not_decoder e hreset (fun tick h => hstep ⟨tick, h⟩) haction
      exact absurd (congrArg State.tMark hframe) hmark
    case pos =>
      obtain ⟨tick, rfl⟩ := hstep
      obtain ⟨-, rfl⟩ | ⟨b, u, hbyte, hact, hu⟩ := exec_decStep_cases e rfl
      · exact absurd (resyncCheck_tMark tick s) hmark
      · have hmarku : u.tMark = s.tMark := (congrArg State.tMark hu :).trans (resyncCheck_tMark tick s)
        have hparams : u.params = s.params := (congrArg State.params hu :).trans (resyncCheck_params tick s)
        obtain ⟨hd, rfl, ht⟩ := byteAction_mark hact (hmarku ▸ hmark)
        have hidle := resyncCheck_to_awaitSync0 ((congrArg State.dstate hu :).symm.trans hd)
        rw [← hparams, ht]
        exact ⟨tick, rfl, rfl, rfl, .inr ⟨rfl, ht ▸ hbyte, hparams.symm ▸ hidle⟩⟩

end Sys2Proof.Machine
end

section
/-! The checksum as a function of the bytes (42_checksum_engine.md R194, R198). -/

namespace Sys2Proof.Machine

/-- The accumulators after some bytes from any start: `CK_A` gains their sum, and `CK_B` gains the start's `CK_A` once per
byte and their weighted sum. -/
theorem ckFold_eq (bytes : List Byte) (a b : Byte) :
    bytes.foldl (fun (p : Byte × Byte) x => (p.1 + x, p.2 + (p.1 + x))) (a, b) =
      (a + BitVec.ofNat 8 (plainSum bytes),
        b + (BitVec.ofNat 8 bytes.length * a + BitVec.ofNat 8 (weightedSum bytes))) := by
  induction bytes generalizing a b with
  | nil => simp [plainSum, weightedSum]
  | cons x xs ih =>
    rw [List.foldl_cons, ih]
    simp only [plainSum, weightedSum, List.length_cons, BitVec.ofNat_add, BitVec.ofNat_mul, BitVec.ofNat_toNat,
      BitVec.setWidth_eq]
    refine Prod.ext ?_ ?_ <;> grind

theorem ckPair_eq (bytes : List Byte) :
    ckPair bytes = (BitVec.ofNat 8 (plainSum bytes), BitVec.ofNat 8 (weightedSum bytes)) := by
  refine (ckFold_eq bytes 0 0).trans ?_
  simp

/-- R194. -/
theorem ck_eq (bytes : List Byte) :
    ck bytes = joinBytes (BitVec.ofNat 8 (plainSum bytes)) (BitVec.ofNat 8 (weightedSum bytes)) := by
  rw [ck, ckPair_eq]

theorem plainSum_append (xs ys : List Byte) : plainSum (xs ++ ys) = plainSum xs + plainSum ys := by
  induction xs with
  | nil => simp [plainSum]
  | cons x xs ih => simp only [List.cons_append, plainSum, ih]; omega

/-- Equal checksums have equal low bytes, the sums mod 256. -/
theorem plainSum_mod_of_ck_eq {xs ys : List Byte} (h : ck xs = ck ys) : plainSum xs % 256 = plainSum ys % 256 := by
  have hlow := congrArg (fun v => (lowByte v).toNat) h
  simpa only [ck_eq, lowByte_joinBytes, BitVec.toNat_ofNat] using hlow

/-- Settles O41: the two sums of the closed form are what the accumulators hold mod 256. -/
theorem checksumHasTheClosedForm : Obligations.ChecksumHasTheClosedForm := by
  intro bytes s
  rw [ckResult_ckRun]
  refine ⟨?_, rfl⟩
  simp only [ck_eq, joinBytes_toNat, BitVec.toNat_ofNat]
  omega

/-- Settles O42: one changed byte changes the sum mod 256; the examples are evaluated. -/
theorem oneChangedByteChangesTheChecksum : Obligations.OneChangedByteChangesTheChecksum := by
  refine ⟨fun before after x y hne h => hne (BitVec.eq_of_toNat_eq ?_), by decide, by decide⟩
  have hsum := plainSum_mod_of_ck_eq h
  have hx := x.isLt
  have hy := y.isLt
  simp only [plainSum_append, plainSum] at hsum
  omega

end Sys2Proof.Machine
end

section
/-! A send as a whole (43_frame_encoder.md R211 to R215). -/

namespace Sys2Proof.Machine

/-! The start of a send. -/

/-- R214 for an operand within capacity: the accumulators hold the checksum and the frame is started with it. -/
theorem exec_txSend_of_fits {s : State} (id : Word16) {payload : List Byte} (h : payload.length ≤ s.params.payloadCap) :
    exec (.txSend id payload) s =
      .next (startFrame id payload (messageCk id payload) (ckMessage id payload s)) := by
  obtain ⟨hlong, -⟩ | ⟨-, hsend⟩ := sendMessage_cases id payload s
  · exact absurd hlong (Nat.not_lt.mpr h)
  · exact congrArg Host.Outcome.next hsend

theorem exec_txSend_of_tooLong {s : State} (id : Word16) {payload : List Byte}
    (h : s.params.payloadCap < payload.length) :
    exec (.txSend id payload) s = .next { s with events := s.events ++ [.txReject], result := .rejected } := by
  obtain ⟨-, hsend⟩ | ⟨hfits, -⟩ := sendMessage_cases id payload s
  · exact congrArg Host.Outcome.next hsend
  · exact absurd h (Nat.not_lt.mpr hfits)

/-- Settles O47: the three rejections are one. -/
theorem oversizeOperandsAreRejected : Obligations.OversizeOperandsAreRejected := by
  intro s id ck payload hlong i hi
  simp only [List.mem_cons, List.not_mem_nil, or_false] at hi
  rcases hi with rfl | rfl | rfl
  · exact exec_ckMsg_of_tooLong id hlong
  · exact exec_encFrame_of_tooLong id ck hlong
  · exact exec_txSend_of_tooLong id hlong

/-- Settles O49: `CK_MSG` leaves the accumulators that `TX_SEND` starts the frame with, and its result is overwritten by
the start. -/
theorem txSendIsCkMsgThenEncFrame : Obligations.TxSendIsCkMsgThenEncFrame := by
  intro s id payload
  rcases Nat.lt_or_ge s.params.payloadCap payload.length with hlong | hfits
  case inl =>
    exact ⟨_, _, exec_txSend_of_tooLong id hlong, exec_ckMsg_of_tooLong id hlong,
      fun h => absurd hlong (Nat.not_lt.mpr h), fun _ => ⟨rfl, rfl⟩⟩
  case inr =>
    refine ⟨_, _, exec_txSend_of_fits id hfits, exec_ckMsg_of_fits id hfits,
      fun _ => ⟨_, rfl, ?sameStart, rfl, rfl⟩, fun h => absurd h (Nat.not_lt.mpr hfits)⟩
    rw [ckMessage_eq]
    exact exec_encFrame_of_fits id (messageCk id payload) hfits

/-! The bytes of a send. -/

/-- While the send registers hold a message, the byte at each offset is the one of its frame (R213 against 30_encoding.md
R100). -/
theorem encByte_eq_frameBytes {s : State} {payload : List Byte} (hfits : payload.length < 65536)
    (hlen : s.txLen = lenField payload) (htxm : s.txm = Mem.ofBytes payload) {p : Nat} (hp : p < payload.length + 8) :
    encByte p s = (frameBytes s.params.sync0 s.params.sync1 s.txId payload s.txCk)[p]? := by
  have hlenNat : s.txLen.toNat = payload.length := by rw [hlen, lenField_toNat payload hfits]
  obtain hhead | ⟨k, hk, rfl⟩ | rfl | rfl :
      p < 6 ∨ (∃ k, k < payload.length ∧ p = 6 + k) ∨ p = 6 + s.txLen.toNat ∨ p = 7 + s.txLen.toNat := by
    by_cases h : p < 6 + payload.length
    · by_cases h6 : p < 6
      · exact .inl h6
      · exact .inr (.inl ⟨p - 6, by omega, by omega⟩)
    · omega
  · rw [frameBytes_eq_prefix_payload_checksum, ← hlen]
    interval_cases p <;> rfl
  · rw [frameBytes_getElem?_payload _ _ _ _ _ hk, encByte_payload (Nat.le_add_right 6 k) (by omega),
      Nat.add_sub_cancel_left, memRead_txm_of_ofBytes htxm hk]
  · rw [encByte_ckLow, hlenNat]
    exact (frameBytes_getElem?_checksum _ _ _ payload _ 0).symm
  · rw [encByte_ckHigh, hlenNat, show 7 + payload.length = 6 + payload.length + 1 by omega]
    exact (frameBytes_getElem?_checksum _ _ _ payload _ 1).symm

/-- One acceptance, then the rest of the bytes. -/
theorem WritesBytes.cons {t t' : State} {b : Byte} {w : List Byte} (haccept : acceptTurn t = .next t')
    (hbusy : t.encBusy = true) (hsent : t'.sent = t.sent ++ [b]) (h : WritesBytes t' t' w) : WritesBytes t t (b :: w) := by
  have htimes : ∀ n, acceptTimes (n + 1) t = acceptTimes n t' := fun n => by simp only [acceptTimes, haccept]
  obtain ⟨⟨u, hu, husent, hdone⟩, hbefore⟩ := h
  refine ⟨⟨u, (htimes _).trans hu, by rw [husent, hsent, List.append_assoc]; rfl, hdone⟩, fun n hn => ?_⟩
  cases n with
  | zero => exact ⟨t, rfl, hbusy, (List.append_nil _).symm⟩
  | succ n =>
    obtain ⟨v, hv, hvbusy, hvsent⟩ := hbefore n (Nat.lt_of_succ_lt_succ hn)
    exact ⟨v, (htimes n).trans hv, hvbusy, by rw [hvsent, hsent, List.append_assoc]; rfl⟩

/-- The rest of a frame is written from any offset, one byte for each acceptance: the send is over exactly when nothing
is left. -/
theorem writesBytes_of_rest {t : State} {w : List Byte} (hover : w = [] → t.encBusy = false ∧ t.result = .ok)
    (hbusy : w ≠ [] → t.encBusy = true) (hend : t.encPos.toNat + w.length = t.txLen.toNat + 8)
    (hbytes : ∀ k, k < w.length → encByte (t.encPos.toNat + k) t = w[k]?) : WritesBytes t t w := by
  induction w generalizing t with
  | nil => exact ⟨⟨t, rfl, (List.append_nil _).symm, hover rfl⟩, fun n hn => absurd hn (Nat.not_lt_zero n)⟩
  | cons b w ih =>
    have hbusyt := hbusy (List.cons_ne_nil b w)
    rw [List.length_cons] at hend
    have hsucc := encPos_succ_toNat (s := t) (by omega)
    have hlast : (t.encPos + 1).toNat = t.txLen.toNat + 8 ↔ w = [] := by
      rw [hsucc, ← List.length_eq_zero_iff]; omega
    refine .cons (acceptTurn_of_byte hbusyt (hbytes 0 (Nat.succ_pos _))) hbusyt rfl (ih ?ended ?writing ?offset ?rest)
    case ended => exact fun hw => ⟨if_pos (hlast.mpr hw), if_pos (hlast.mpr hw)⟩
    case writing => exact fun hw => (if_neg (hw ∘ hlast.mp)).trans hbusyt
    case offset => show (t.encPos + 1).toNat + w.length = t.txLen.toNat + 8; omega
    case rest =>
      intro k hk
      show encByte ((t.encPos + 1).toNat + k) t = w[k]?
      rw [hsucc, Nat.add_right_comm, Nat.add_assoc, hbytes (k + 1) (Nat.succ_lt_succ hk), List.getElem?_cons_succ]

/-- A started frame is written whole. -/
theorem startFrame_writesBytes (id : Word16) {payload : List Byte} (ck : Word16) (s : State)
    (hfits : payload.length < 65536) :
    WritesBytes s (startFrame id payload ck s) (frameBytes s.params.sync0 s.params.sync1 id payload ck) := by
  have hlen : (frameBytes s.params.sync0 s.params.sync1 id payload ck).length = payload.length + 8 :=
    frameBytes_length ..
  refine writesBytes_of_rest (t := startFrame id payload ck s) (fun hw => nomatch hw) (fun _ => rfl) ?_ fun k hk => ?_
  · show 0 + (frameBytes _ _ _ _ _).length = (lenField payload).toNat + 8
    rw [hlen, lenField_toNat payload hfits, Nat.zero_add]
  · show encByte (0 + k) _ = _
    rw [Nat.zero_add]
    exact encByte_eq_frameBytes hfits rfl rfl (hlen ▸ hk)

/-- Settles O50: each send starts a frame, and a started frame is written whole. -/
theorem sendWritesExactlyOneFrame : Obligations.SendWritesExactlyOneFrame := by
  intro s id ck payload ⟨hcap, _⟩ hfits
  have hlen : payload.length < 65536 := by omega
  refine ⟨⟨_, exec_encFrame_of_fits id ck hfits, startFrame_writesBytes id ck s hlen⟩,
    _, exec_txSend_of_fits id hfits, ?_⟩
  rw [ckMessage_eq]
  exact startFrame_writesBytes id (messageCk id payload) _ hlen

/-- The frame of an empty message, with its checksum in closed form (R215). -/
theorem frameBytes_empty (s0 s1 : Byte) (id : Word16) :
    frameBytes s0 s1 id [] (messageCk id []) =
      [s0, s1, BitVec.ofNat 8 id.toNat, BitVec.ofNat 8 (id.toNat / 256), 0x00, 0x00,
        BitVec.ofNat 8 (id.toNat % 256 + id.toNat / 256),
        BitVec.ofNat 8 (4 * (id.toNat % 256) + 3 * (id.toNat / 256))] := by
  have hsum : plainSum (headerBytes id 0) = id.toNat % 256 + id.toNat / 256 := by
    simp [plainSum, headerBytes, lowByte_toNat, highByte_toNat]
  have hweighted : weightedSum (headerBytes id 0) = 4 * (id.toNat % 256) + 3 * (id.toNat / 256) := by
    simp [weightedSum, headerBytes, lowByte_toNat, highByte_toNat]
  have hck : messageCk id [] = joinBytes (BitVec.ofNat 8 (id.toNat % 256 + id.toNat / 256))
      (BitVec.ofNat 8 (4 * (id.toNat % 256) + 3 * (id.toNat / 256))) := by
    rw [← hsum, ← hweighted]
    exact ck_eq (headerBytes id 0)
  rw [frameBytes_eq_prefix_payload_checksum, hck, lowByte_joinBytes, highByte_joinBytes, ← lowByte_eq_ofNat id,
    ← highByte_eq_ofNat id]
  rfl

/-- Settles O51: `TX_SEND_EMPTY` is `TX_SEND` of no payload by definition, and the frame written is the eight bytes. -/
theorem txSendEmptyWritesEightBytes : Obligations.TxSendEmptyWritesEightBytes := by
  intro s id hlegal
  obtain ⟨-, t, e, ⟨u, hu, hsent, hbusy, hresult⟩, hbefore⟩ :=
    sendWritesExactlyOneFrame s id 0 [] hlegal (Nat.zero_le _)
  obtain ⟨v, hv, hvbusy, -⟩ := hbefore 0 (Nat.zero_lt_succ _)
  cases hv
  exact ⟨t, u, e, e, hvbusy, hu, hbusy, hresult, by rw [hsent, frameBytes_empty]⟩

end Sys2Proof.Machine
end

section
/-! What each operation can change, told by the groups of operations (10_state.md R52). -/

namespace Sys2Proof.Machine

/-- The operations at other agents' ports (30_encoding.md R109, 60_exceptions.md R266). -/
theorem eq_of_agent_ne_consumer {i : Instr} (h : i.agent ≠ .consumer) :
    i = .reset ∨ (∃ x, i = .qPush x) ∨ ∃ id payload ck, i = .frame id payload ck := by
  cases i
  case reset => exact .inl rfl
  case qPush x => exact .inr (.inl ⟨x, rfl⟩)
  case frame id payload ck => exact .inr (.inr ⟨id, payload, ck, rfl⟩)
  all_goals exact absurd rfl h

/-- Only C's operations need a decoder state to select them. -/
theorem actionState_of_agent_ne_consumer {i : Instr} (h : i.agent ≠ .consumer) : actionState i = none := by
  obtain rfl | ⟨x, rfl⟩ | ⟨id, payload, ck, rfl⟩ := eq_of_agent_ne_consumer h <;> rfl

theorem clearStatus_zero (status : BitVec 2) : clearStatus 0 status = status := BitVec.and_allOnes

/-- The only event of a send's start is the rejection of its operand (60_exceptions.md R256). -/
theorem sendMessage_events (id : Word16) (payload : List Byte) (s : State) :
    (sendMessage id payload s).events = s.events ∨ (sendMessage id payload s).events = s.events ++ [.txReject] := by
  obtain ⟨-, heq⟩ | ⟨-, heq⟩ := sendMessage_cases id payload s <;> rw [heq]
  · exact .inr rfl
  · rw [ckMessage_eq]; exact .inl rfl

/-- What an operation of neither the decoder nor the queue can change; its only event is the rejection of an operand, and
it sets no bit of `STATUS`. -/
theorem exec_frame_of_not_queue {i : Instr} {s t : State} (e : exec i s = .next t) (hreset : i ≠ .reset)
    (hpush : ∀ x, i ≠ .qPush x) (hpop : i ≠ .qPop) (hstep : ∀ tick, i ≠ .decStep tick) (haction : actionState i = none) :
    t = { s with
      dstate := t.dstate, rxValid := t.rxValid, status := t.status, events := t.events, result := t.result
      ckA := t.ckA, ckB := t.ckB, draws := t.draws, encBusy := t.encBusy, encPos := t.encPos, txId := t.txId
      txLen := t.txLen, txCk := t.txCk, txm := t.txm, line := t.line } ∧
    (t.events = s.events ∨ t.events = s.events ++ [.txReject]) ∧
    ∃ mask, t.status = clearStatus mask s.status := by
  cases i <;> simp only [actionState, reduceCtorEq] at haction
  case reset => exact absurd rfl hreset
  case qPush x => exact absurd rfl (hpush x)
  case qPop => exact absurd rfl hpop
  case decStep tick => exact absurd rfl (hstep tick)
  case statusClear mask => cases e; exact ⟨rfl, .inl rfl, mask, rfl⟩
  case msgRead sel idx => rw [execMsgRead_frame e]; exact ⟨rfl, .inl rfl, 0, (clearStatus_zero _).symm⟩
  case ckMsg id payload =>
    rcases Nat.lt_or_ge s.params.payloadCap payload.length with hlong | hfits
    · cases (exec_ckMsg_of_tooLong id hlong).symm.trans e
      exact ⟨rfl, .inr rfl, 0, (clearStatus_zero _).symm⟩
    · cases (exec_ckMsg_of_fits id hfits).symm.trans e
      exact ⟨rfl, .inl rfl, 0, (clearStatus_zero _).symm⟩
  case ckVerify =>
    obtain ⟨-, rfl⟩ := execCkVerify_cases e
    exact ⟨rfl, .inl rfl, 0, (clearStatus_zero _).symm⟩
  case encFrame id payload ck =>
    rcases Nat.lt_or_ge s.params.payloadCap payload.length with hlong | hfits
    · cases (exec_encFrame_of_tooLong id ck hlong).symm.trans e
      exact ⟨rfl, .inr rfl, 0, (clearStatus_zero _).symm⟩
    · cases (exec_encFrame_of_fits id ck hfits).symm.trans e
      exact ⟨rfl, .inl rfl, 0, (clearStatus_zero _).symm⟩
  case txSend id payload =>
    have ht : t = sendMessage id payload s := by cases e; rfl
    exact ⟨by rw [ht, sendMessage_frame], ht ▸ sendMessage_events id payload s, 0, by
      rw [ht, sendMessage_frame]; exact (clearStatus_zero _).symm⟩
  case txSendEmpty id =>
    have ht : t = sendMessage id [] s := by cases e; rfl
    exact ⟨by rw [ht, sendMessage_frame], ht ▸ sendMessage_events id [] s, 0, by
      rw [ht, sendMessage_frame]; exact (clearStatus_zero _).symm⟩
  all_goals cases e; exact ⟨rfl, .inl rfl, 0, (clearStatus_zero _).symm⟩

/-- What any operation but `RESET` keeps (00_scope.md R12, R16). -/
theorem exec_frame {i : Instr} {s t : State} (e : exec i s = .next t) (hreset : i ≠ .reset) :
    t.params = s.params ∧ t.cfgTransport = s.cfgTransport ∧ t.sent = s.sent ∧ t.pulses = s.pulses ∧
    t.handed = s.handed ∧ t.pollPhase = s.pollPhase ∧ t.pulseLeft = s.pulseLeft ∧ t.epoch = s.epoch := by
  by_cases hstep : ∃ tick, i = .decStep tick
  case pos =>
    obtain ⟨tick, rfl⟩ := hstep
    rw [execDecStep_frame e]
    exact ⟨rfl, rfl, rfl, rfl, rfl, rfl, rfl, rfl⟩
  case neg =>
    cases haction : actionState i with
    | some d => rw [(exec_action_cases haction e).1]; exact ⟨rfl, rfl, rfl, rfl, rfl, rfl, rfl, rfl⟩
    | none =>
      rw [(exec_frame_of_not_decoder e hreset (fun tick h => hstep ⟨tick, h⟩) haction).1]
      exact ⟨rfl, rfl, rfl, rfl, rfl, rfl, rfl, rfl⟩

/-- A byte action sets `STATUS.LEN_REJ` or nothing (41_frame_decoder.md R159). -/
theorem byteAction_status {tick : Nat} {b : Byte} {s t : State} (h : byteAction tick b s = .next t) :
    t.status = s.status ∨ t.status = setLenRej s.status := by
  unfold byteAction at h
  split at h
  · rcases execActAwaitSync0_cases h with ⟨-, rfl⟩ | ⟨-, rfl⟩ <;> exact .inl rfl
  · rcases execActAwaitSync1_cases h with ⟨-, rfl⟩ | ⟨-, rfl⟩ <;> exact .inl rfl
  case h_6 => rcases execActLengthHigh_cases h with ⟨-, rfl⟩ | ⟨-, rfl⟩ | ⟨-, -, rfl⟩; exacts [.inl rfl, .inr rfl, .inl rfl]
  case h_7 => obtain ⟨-, -, -, rfl⟩ := execActPayload_cases h; exact .inl rfl
  all_goals cases h; exact .inl rfl

end Sys2Proof.Machine
end

section
/-! Which operations write which registers (10_state.md R35, R40 to R44, R52). -/

namespace Sys2Proof.Machine

/-- The operations that move the queue's registers (10_state.md R40 to R42). -/
theorem exec_queue_frame {i : Instr} {s t : State} (e : exec i s = .next t) (hreset : i ≠ .reset)
    (hpush : ∀ x, i ≠ .qPush x) (hpop : i ≠ .qPop) (hstep : ∀ tick, i ≠ .decStep tick) :
    t.qIn = s.qIn ∧ t.qOut = s.qOut ∧ t.qCount = s.qCount ∧ t.qb = s.qb := by
  cases haction : actionState i with
  | some d => rw [(exec_action_cases haction e).1]; exact ⟨rfl, rfl, rfl, rfl⟩
  | none =>
    rw [(exec_frame_of_not_queue e hreset hpush hpop hstep haction).1]
    exact ⟨rfl, rfl, rfl, rfl⟩

/-- No read of the queue moves its write side (40_receive_queue.md R133). -/
theorem exec_write_side_frame {i : Instr} {s t : State} (e : exec i s = .next t) (hreset : i ≠ .reset)
    (hpush : ∀ x, i ≠ .qPush x) : t.qIn = s.qIn ∧ t.qb = s.qb := by
  by_cases hpop : i = .qPop
  case pos =>
    subst hpop
    rcases execQPop_cases e with ⟨-, rfl⟩ | ⟨-, -, rfl⟩ <;> exact ⟨rfl, rfl⟩
  by_cases hstep : ∃ tick, i = .decStep tick
  case pos =>
    obtain ⟨tick, rfl⟩ := hstep
    rw [execDecStep_frame e]
    exact ⟨rfl, rfl⟩
  case neg =>
    obtain ⟨hin, -, -, hqb⟩ := exec_queue_frame e hreset hpush hpop fun tick h => hstep ⟨tick, h⟩
    exact ⟨hin, hqb⟩

/-- No push moves the queue's read side (40_receive_queue.md R131, R132). -/
theorem exec_read_side_frame {i : Instr} {s t : State} (e : exec i s = .next t) (hreset : i ≠ .reset)
    (hpop : i ≠ .qPop) (hstep : ∀ tick, i ≠ .decStep tick) : t.qOut = s.qOut := by
  by_cases hpush : ∃ x, i = .qPush x
  case pos =>
    obtain ⟨x, rfl⟩ := hpush
    rcases execQPush_cases e with ⟨-, -, rfl⟩ | ⟨-, rfl⟩ <;> rfl
  case neg => exact (exec_queue_frame e hreset (fun x h => hpush ⟨x, h⟩) hpop hstep).2.1

/-- The timeout check leaves `STATUS` alone, and reading a byte too. -/
theorem exec_decStep_status {tick : Nat} {s t : State} (e : exec (.decStep tick) s = .next t) :
    t.status = s.status ∨ t.status = setLenRej s.status := by
  have hcheck : (resyncCheck tick s).status = s.status := by
    rcases resyncCheck_cases tick s with ⟨-, heq⟩ | ⟨-, -, -, heq⟩ <;> rw [heq]
  obtain ⟨-, rfl⟩ | ⟨b, u, -, hact, hu⟩ := exec_decStep_cases e rfl
  · exact .inl hcheck
  · have hstatus : u.status = s.status := (congrArg State.status hu :).trans hcheck
    exact hstatus ▸ byteAction_status hact

/-- `STATUS.Q_OVF` is set by a push alone (40_receive_queue.md R132). -/
theorem exec_qOvf {i : Instr} {s t : State} (e : exec i s = .next t) (hpush : ∀ x, i ≠ .qPush x)
    (hsel : selected i s = true) (hovf : t.qOvf = true) : s.qOvf = true := by
  have hlenRej : t.status = s.status ∨ t.status = setLenRej s.status → s.qOvf = true := by
    rintro (h | h) <;> simp only [State.qOvf, h, setLenRej_getLsbD_qOvf] at hovf ⊢ <;> exact hovf
  cases haction : actionState i with
  | some d =>
    obtain ⟨-, tick, b, -, hexec⟩ := exists_byteAction_of_selected haction hsel
    exact hlenRej (byteAction_status (hexec ▸ e))
  | none =>
    by_cases hreset : i = .reset
    · subst hreset; cases e; simp [State.qOvf] at hovf
    by_cases hstep : ∃ tick, i = .decStep tick
    · obtain ⟨tick, rfl⟩ := hstep; exact hlenRej (exec_decStep_status e)
    by_cases hpop : i = .qPop
    · subst hpop
      rcases execQPop_cases e with ⟨-, rfl⟩ | ⟨-, -, rfl⟩ <;> exact hovf
    · obtain ⟨-, -, mask, hmask⟩ :=
        exec_frame_of_not_queue e hreset hpush hpop (fun tick h => hstep ⟨tick, h⟩) haction
      rw [State.qOvf, hmask, clearStatus_getLsbD mask s.status Nat.zero_lt_two] at hovf
      exact (Bool.and_eq_true_iff.mp hovf).1

/-- Settles O14: all this stands in what `RESET` keeps. -/
theorem resetLeavesTheOutsideAlone : Obligations.ResetLeavesTheOutsideAlone := by
  intro s
  obtain ⟨t, e⟩ := exec_reset_completes s
  refine ⟨t, e, ?_⟩
  rw [execReset_frame e]
  exact ⟨rfl, rfl, rfl, rfl, rfl, rfl, rfl, rfl, rfl, rfl⟩

/-- Settles O58: the frame of the operations outside the decoder. -/
theorem onlyTheDecoderWritesTheMessage : Obligations.OnlyTheDecoderWritesTheMessage := by
  intro i s t e hreset hstep haction
  rw [(exec_frame_of_not_decoder e hreset hstep haction).1]
  exact ⟨rfl, rfl, rfl, rfl, rfl, fun a _ => byteAt_congr (space := .pl) rfl rfl a⟩

/-- Settles O45: the decoder's operations and the other agents' leave the accumulators, and so do those of C's that are not
in the list. -/
theorem onlyChecksumOperationsTouchTheAccumulators : Obligations.OnlyChecksumOperationsTouchTheAccumulators := by
  intro i s t e hchanged
  have hkept : ¬ (t.ckA = s.ckA ∧ t.ckB = s.ckB) := fun h => hchanged.elim (absurd h.1) (absurd h.2)
  cases haction : actionState i with
  | some d =>
    have hframe := (exec_action_cases haction e).1
    exact absurd (by rw [hframe]; exact ⟨rfl, rfl⟩) hkept
  | none =>
    cases i with
    | reset => exact .inl rfl
    | ckInit => exact .inr (.inl rfl)
    | ckUpdate x => exact .inr (.inr (.inl ⟨x, rfl⟩))
    | ckMsg id payload => exact .inr (.inr (.inr (.inl ⟨id, payload, rfl⟩)))
    | ckVerify => exact .inr (.inr (.inr (.inr (.inl rfl))))
    | txSend id payload => exact .inr (.inr (.inr (.inr (.inr (.inl ⟨id, payload, rfl⟩)))))
    | txSendEmpty id => exact .inr (.inr (.inr (.inr (.inr (.inr ⟨id, rfl⟩)))))
    | decStep tick =>
      have hframe := execDecStep_frame e
      exact absurd (by rw [hframe]; exact ⟨rfl, rfl⟩) hkept
    | qPush x =>
      rcases execQPush_cases e with ⟨-, -, rfl⟩ | ⟨-, rfl⟩ <;> exact absurd ⟨rfl, rfl⟩ hkept
    | qPop => rcases execQPop_cases e with ⟨-, rfl⟩ | ⟨-, -, rfl⟩ <;> exact absurd ⟨rfl, rfl⟩ hkept
    | msgRead sel idx =>
      have hframe := execMsgRead_frame e
      exact absurd (by rw [hframe]; exact ⟨rfl, rfl⟩) hkept
    | encFrame id payload ck =>
      rcases Nat.lt_or_ge s.params.payloadCap payload.length with hlong | hfits
      · cases (exec_encFrame_of_tooLong id ck hlong).symm.trans e; exact absurd ⟨rfl, rfl⟩ hkept
      · cases (exec_encFrame_of_fits id ck hfits).symm.trans e; exact absurd ⟨rfl, rfl⟩ hkept
    | statusRead => cases e; exact absurd ⟨rfl, rfl⟩ hkept
    | statusClear mask => cases e; exact absurd ⟨rfl, rfl⟩ hkept
    | decReset => cases e; exact absurd ⟨rfl, rfl⟩ hkept
    | ckResult => cases e; exact absurd ⟨rfl, rfl⟩ hkept
    | frame id payload ck => cases e; exact absurd ⟨rfl, rfl⟩ hkept
    | _ => cases haction

end Sys2Proof.Machine
end

section
/-! All that one step of the execution sequence can be (20_memory.md R75; log 3). -/

namespace Sys2Proof.Machine

/-- C neither writes a frame nor is inside a blocking pulse (43_frame_encoder.md R216, 70_reset_and_hazards.md R294). -/
def ConsumerFree (s : State) : Prop := s.encBusy = false ∧ s.pulseLeft = 0

/-- What a turn can come to in the state `s` it was taken from: one constructor per kind of transition. -/
inductive Transition (s : State) : Turn → Host.Outcome State Fault Refusal → Prop where
  | idle {turn} : Transition s turn (.next s)
  | refused {turn} (r : Refusal) : Transition s turn (.refused r)
  | outside {code i} (hagent : i.agent ≠ .consumer) (hexists : agentExists i.agent s = true) :
      Transition s (.outside code) (exec i s)
  | arrive (b : Byte) : Transition s (.arrive b) (.next (deliver [b] s))
  | push {b rest} (hserial : s.cfgTransport = .serialQueued) (hline : s.line = b :: rest) :
      Transition s .interrupt (exec (.qPush b) { s with line := rest })
  | operation {i rest} (hfree : ConsumerFree s) (hphase : s.pollPhase = .idle) (hagent : i.agent = .consumer)
      (hsel : selected i s = true) :
      Transition s .consumer (exec i { s with requests := rest })
  | pollStart {tick rest} (hfree : ConsumerFree s) (hphase : s.pollPhase = .idle) :
      Transition s .consumer (pollStart tick { s with requests := rest })
  | pollVerify (hfree : ConsumerFree s) (hphase : s.pollPhase = .verify) : Transition s .consumer (pollVerify s)
  | pollDispatch (hfree : ConsumerFree s) (hphase : s.pollPhase = .dispatch) :
      Transition s .consumer (.next (pollDispatch s))
  | pollEvaluate (hfree : ConsumerFree s) (hphase : s.pollPhase = .evaluating) :
      Transition s .consumer (.next (pollEvaluate s))
  | accept (hbusy : s.encBusy = true) : Transition s .accept (encByteTransition s)
  | timeUnit : Transition s .timeUnit (.next (passTimeUnit s))

/-! C's turn. -/

theorem consumerTurn_verify {s : State} (hfree : ConsumerFree s) (hphase : s.pollPhase = .verify) :
    consumerTurn s = pollVerify s := by simp [consumerTurn, hfree.1, hfree.2, hphase]

theorem consumerTurn_dispatch {s : State} (hfree : ConsumerFree s) (hphase : s.pollPhase = .dispatch) :
    consumerTurn s = .next (pollDispatch s) := by simp [consumerTurn, hfree.1, hfree.2, hphase]

theorem consumerTurn_evaluating {s : State} (hfree : ConsumerFree s) (hphase : s.pollPhase = .evaluating) :
    consumerTurn s = .next (pollEvaluate s) := by simp [consumerTurn, hfree.1, hfree.2, hphase]

theorem consumerTurn_no_request {s : State} (hfree : ConsumerFree s) (hphase : s.pollPhase = .idle)
    (hrequests : s.requests = []) : consumerTurn s = .next s := by
  simp [consumerTurn, hfree.1, hfree.2, hphase, hrequests]

theorem consumerTurn_op {s : State} {code : List Byte} {rest : List Request} (hfree : ConsumerFree s)
    (hphase : s.pollPhase = .idle) (hrequests : s.requests = .op code :: rest) :
    consumerTurn s = runCode true code { s with requests := rest } := by
  simp [consumerTurn, hfree.1, hfree.2, hphase, hrequests]

theorem consumerTurn_poll {s : State} {tick : Nat} {rest : List Request} (hfree : ConsumerFree s)
    (hphase : s.pollPhase = .idle) (hrequests : s.requests = .poll tick :: rest) :
    consumerTurn s = pollStart tick { s with requests := rest } := by
  simp [consumerTurn, hfree.1, hfree.2, hphase, hrequests]

theorem consumerTurn_transition (s : State) : Transition s .consumer (consumerTurn s) := by
  by_cases hfree : ConsumerFree s
  case neg =>
    rw [consumerTurn_waiting (s := s) (by simpa [ConsumerFree, or_iff_not_imp_left] using hfree)]
    exact .idle
  case pos =>
    cases hphase : s.pollPhase with
    | verify => rw [consumerTurn_verify hfree hphase]; exact .pollVerify hfree hphase
    | dispatch => rw [consumerTurn_dispatch hfree hphase]; exact .pollDispatch hfree hphase
    | evaluating => rw [consumerTurn_evaluating hfree hphase]; exact .pollEvaluate hfree hphase
    | idle =>
      match hrequests : s.requests with
      | [] => rw [consumerTurn_no_request hfree hphase hrequests]; exact .idle
      | .poll tick :: rest => rw [consumerTurn_poll hfree hphase hrequests]; exact .pollStart hfree hphase
      | .op code :: rest =>
        rw [consumerTurn_op hfree hphase hrequests]
        obtain ⟨e, -, heq⟩ | ⟨i, -, ⟨-, heq⟩ | ⟨-, -, heq⟩ | ⟨-, -, -, heq⟩ | ⟨hagent, -, hsel, heq⟩⟩ :=
          runCode_cases (c := true) (code := code) (s := { s with requests := rest }) <;> rw [heq]
        · exact .refused _
        · exact .refused _
        · exact .refused _
        · exact .refused _
        · exact .operation hfree hphase (by simpa using hagent) hsel

/-! The other agents' turns. -/

theorem outsideTurn_transition (s : State) (code : List Byte) : Transition s (.outside code) (runCode false code s) := by
  obtain ⟨e, -, heq⟩ | ⟨i, -, ⟨-, heq⟩ | ⟨-, -, heq⟩ | ⟨-, -, -, heq⟩ | ⟨hagent, hexists, -, heq⟩⟩ :=
    runCode_cases (c := false) (code := code) (s := s) <;> rw [heq]
  · exact .refused _
  · exact .refused _
  · exact .refused _
  · exact .refused _
  · exact .outside (by simpa using hagent) hexists

theorem interruptTurn_idle {s : State} (h : s.cfgTransport = .usbDirect ∨ s.line = []) :
    interruptTurn s = .next s := by
  unfold interruptTurn
  rcases h with h | h <;> simp only [h]
  cases s.cfgTransport <;> rfl

theorem interruptTurn_push {s : State} {b : Byte} {rest : List Byte} (hserial : s.cfgTransport = .serialQueued)
    (hline : s.line = b :: rest) : interruptTurn s = exec (.qPush b) { s with line := rest } := by
  simp only [interruptTurn, hserial, hline]

theorem interruptTurn_transition (s : State) : Transition s .interrupt (interruptTurn s) := by
  cases hserial : s.cfgTransport with
  | usbDirect => rw [interruptTurn_idle (.inl hserial)]; exact .idle
  | serialQueued =>
    cases hline : s.line with
    | nil => rw [interruptTurn_idle (.inr hline)]; exact .idle
    | cons b rest => rw [interruptTurn_push hserial hline]; exact .push hserial hline

theorem acceptTurn_busy {s : State} (h : s.encBusy = true) : acceptTurn s = encByteTransition s := if_pos h

theorem acceptTurn_idle {s : State} (h : s.encBusy = false) : acceptTurn s = .next s :=
  if_neg (by rw [h]; exact Bool.false_ne_true)

theorem acceptTurn_transition (s : State) : Transition s .accept (acceptTurn s) := by
  cases h : s.encBusy with
  | true => rw [acceptTurn_busy h]; exact .accept h
  | false => rw [acceptTurn_idle h]; exact .idle

theorem performTurn_transition (turn : Turn) (s : State) : Transition s turn (performTurn turn s) := by
  cases turn with
  | outside code => exact outsideTurn_transition s code
  | arrive b => exact .arrive b
  | interrupt => exact interruptTurn_transition s
  | consumer => exact consumerTurn_transition s
  | accept => exact acceptTurn_transition s
  | timeUnit => exact .timeUnit

/-! The step. -/

theorem step_of_no_turn {s : State} (h : s.turns = []) : step s = .next s := by
  simp only [step, stepTurn, h]

theorem step_of_turn {s : State} {turn : Turn} {rest : List Turn} (h : s.turns = turn :: rest) :
    step s = performTurn turn { s with turns := rest } := by
  simp only [step, stepTurn, h]

/-- A step takes the next turn, if there is one, and makes one transition from there. -/
theorem step_cases {s : State} {o : Host.Outcome State Fault Refusal} (h : step s = o) :
    (s.turns = [] ∧ o = .next s) ∨
    ∃ turn rest, s.turns = turn :: rest ∧ Transition { s with turns := rest } turn o := by
  cases hturns : s.turns with
  | nil => exact .inl ⟨rfl, h ▸ step_of_no_turn hturns⟩
  | cons turn rest => exact .inr ⟨turn, rest, rfl, h ▸ step_of_turn hturns ▸ performTurn_transition turn _⟩

end Sys2Proof.Machine
end

section
/-! The turns of the agents as steps (00_scope.md R17 to R19; logs 3, 15 to 17). -/

namespace Sys2Proof.Machine

/-! Performing a code. -/

theorem runCode_of_selected {c : Bool} {code : List Byte} {s : State} {i : Instr}
    (hdecode : decodeWhole s.params code = .ok i) (hport : (i.agent == .consumer) = c)
    (hexists : agentExists i.agent s = true) (hsel : selected i s = true) : runCode c code s = exec i s := by
  simp [runCode, hdecode, hport, hexists, hsel]

/-- At C's port. -/
theorem runCode_consumer {code : List Byte} {s : State} {i : Instr} (hdecode : decodeWhole s.params code = .ok i)
    (hagent : i.agent = .consumer) (hsel : selected i s = true) : runCode true code s = exec i s :=
  runCode_of_selected hdecode (by rw [hagent]; rfl) (by rw [hagent]; rfl) hsel

theorem agentExists_of_producer_implies_serial {a : Agent} {s : State}
    (h : a = .producer → s.cfgTransport = .serialQueued) : agentExists a s = true := by
  rw [← Bool.not_eq_false, agentExists_eq_false]
  rintro ⟨ha, husb⟩
  rw [h ha] at husb
  cases husb

/-- At another agent's port. -/
theorem runCode_outside {code : List Byte} {s : State} {i : Instr} (hdecode : decodeWhole s.params code = .ok i)
    (hagent : i.agent ≠ .consumer) (hexists : i.agent = .producer → s.cfgTransport = .serialQueued) :
    runCode false code s = exec i s :=
  runCode_of_selected hdecode (by simpa using hagent) (agentExists_of_producer_implies_serial hexists)
    (selected_of_actionState_none s (actionState_of_agent_ne_consumer hagent))

/-- P does not exist under `UsbDirect` (00_scope.md R18). -/
theorem runCode_no_producer {code : List Byte} {s : State} {i : Instr} (hdecode : decodeWhole s.params code = .ok i)
    (hagent : i.agent = .producer) (husb : s.cfgTransport = .usbDirect) :
    runCode false code s = .refused .noProducer := by
  simp [runCode, hdecode, hagent, agentExists, husb]

/-- Settles O6: a turn of C with a request is `runCode` at C's port, another agent's at the others'. -/
theorem stepIsExecOfTheDecodedOperation : Obligations.StepIsExecOfTheDecodedOperation := by
  refine ⟨fun s i code ts rs hturns hrequests hbusy hpulse hphase hdecode hagent hsel => ?consumer,
    fun s i code ts hturns hdecode hagent hexists => ?outside, fun s i code ts hturns hdecode hagent husb => ?noProducer⟩
  case consumer =>
    refine (step_of_turn hturns).trans ((consumerTurn_op (s := { s with turns := ts }) ⟨hbusy, hpulse⟩ hphase
      hrequests).trans (runCode_consumer hdecode hagent hsel))
  case outside => exact (step_of_turn hturns).trans (runCode_outside hdecode hagent hexists)
  case noProducer => exact (step_of_turn hturns).trans (runCode_no_producer hdecode hagent husb)

/-! Placing a word. -/

/-- The bytes that the decoder took are the code of exactly what it read. -/
theorem decodeWhole_of_decode {p : Params} {bs rest : List Byte} {i : Instr} (h : decode p bs = .ok (i, rest)) :
    decodeWhole p (bs.take (bs.length - rest.length)) = .ok i := by
  obtain ⟨-, used, -, rfl, hused⟩ := decodeReadsAWellFormedPrefix p bs rest i h
  have htaken : (used ++ rest).take ((used ++ rest).length - rest.length) = used := by simp
  have hexact : decode p used = .ok (i, []) := by simpa using hused []
  simp only [decodeWhole, htaken, hexact]

/-- `placeWord` leaves `DSTATE` selecting the placed operation. -/
theorem selected_of_placed (i : Instr) (s : State) (h : s.dstate = (actionState i).getD s.dstate) :
    selected i s = true := by
  cases haction : actionState i with
  | none => exact selected_of_actionState_none s haction
  | some d => simpa [selected, haction] using h

/-- Settles O7: the placed code decodes to what the word's bytes do, and the state is made for it to be performed. -/
theorem placedWordIsTheNextOperation : Obligations.PlacedWordIsTheNextOperation := by
  intro s nbits w i rest h
  have hcode := decodeWhole_of_decode h
  have hplaced : s.withFetchWord nbits w = placeOp i ((tableBytes s.params nbits w).take
      ((tableBytes s.params nbits w).length - rest.length)) s := by
    simp only [State.withFetchWord, placeWord, h]
  rw [hplaced, placeOp]
  by_cases hagent : i.agent = .consumer
  case pos =>
    rw [if_pos hagent, if_pos hagent]
    refine .trans (step_of_turn rfl) (.trans (consumerTurn_op ⟨rfl, rfl⟩ rfl rfl) (runCode_consumer hcode hagent ?_))
    exact selected_of_placed i _ (by cases actionState i <;> rfl)
  case neg =>
    rw [if_neg hagent, if_neg hagent]
    exact .trans (step_of_turn rfl) (runCode_outside hcode hagent fun hp => if_pos hp)

/-! The transport's turns. -/

/-- Settles O8: the two cases of the interrupt's turn. -/
theorem interruptPushesTheOldestByte : Obligations.InterruptPushesTheOldestByte :=
  fun s ts hturns => ⟨fun _ _ hserial hline => (step_of_turn hturns).trans
      (interruptTurn_push (s := { s with turns := ts }) hserial hline),
    fun h => (step_of_turn hturns).trans (interruptTurn_idle (s := { s with turns := ts }) h)⟩

/-- Settles O53: the frame's bytes are put behind the others, as the single byte is, and an acceptance has two cases. -/
theorem frameReachesTheTransport : Obligations.FrameReachesTheTransport := by
  refine ⟨fun s id ck payload => ⟨_, rfl, rfl, rfl, sameBytes_of rfl rfl rfl rfl⟩, fun s b ts hturns => ?arrive,
    fun s ts hturns => ⟨fun hbusy => ?accept, fun hidle => ?ignore⟩⟩
  case arrive => exact step_of_turn hturns
  case accept => exact (step_of_turn hturns).trans (acceptTurn_busy (s := { s with turns := ts }) hbusy)
  case ignore => exact (step_of_turn hturns).trans (acceptTurn_idle (s := { s with turns := ts }) hidle)

end Sys2Proof.Machine
end

section
/-! The Poll Dispatcher (44_poll_dispatcher.md R231 to R235). -/

namespace Sys2Proof.Machine

/-! Its transitions. -/

theorem pollStart_of_next {tick : Nat} {s u : State} (h : exec (.decStep tick) s = .next u) :
    pollStart tick s = .next (pollAfterStep u) := by
  have hstep : execDecStep tick s = .next u := h
  simp only [pollStart, hstep]

theorem pollVerify_of_next {s u : State} (h : exec .ckVerify s = .next u) :
    pollVerify s = .next (pollAfterVerify u) := by
  have hverify : execCkVerify s = .next u := h
  simp only [pollVerify, hverify]

theorem pollStart_cases {tick : Nat} {s t : State} (h : pollStart tick s = .next t) :
    ∃ u, exec (.decStep tick) s = .next u ∧ t = pollAfterStep u := by
  unfold pollStart at h
  split at h
  next u hu => cases h; exact ⟨u, hu, rfl⟩
  all_goals cases h

theorem pollVerify_cases {s t : State} (h : pollVerify s = .next t) :
    ∃ u, exec .ckVerify s = .next u ∧ t = pollAfterVerify u := by
  unfold pollVerify at h
  split at h
  next u hu => cases h; exact ⟨u, hu, rfl⟩
  all_goals cases h

/-- R231: the activity pulse tells a consumed byte, and a complete frame goes on to its verification. -/
theorem pollAfterStep_eq (u : State) :
    pollAfterStep u = { u with
      pulses := u.pulses ++ (if u.result.consumed then [⟨.status, activityPulse⟩] else [])
      pulseLeft := if u.result.consumed && u.params.pulseBlocks then activityPulse else u.pulseLeft
      pollPhase := if u.result.complete then .verify else u.pollPhase } := by
  unfold pollAfterStep pulse
  cases u.result.consumed <;> cases u.result.complete <;> simp

theorem pollAfterVerify_of_match {u : State} (h : u.result = .verified true) :
    pollAfterVerify u = { u with pollPhase := .dispatch } := if_pos h

/-- 60_exceptions.md R252. -/
theorem pollAfterVerify_of_mismatch {u : State} (h : u.result ≠ .verified true) :
    pollAfterVerify u = { u with
      events := u.events ++ [.ckMismatch], pulses := u.pulses ++ [⟨.error, shortErrorPulse⟩]
      pulseLeft := if u.params.pulseBlocks then shortErrorPulse else u.pulseLeft, pollPhase := .idle } := if_neg h

/-- The whole message is read and handed on (R231). -/
theorem pollDispatch_eq (s : State) :
    pollDispatch s = { s with
      draws := if s.rxValid then s.draws else s.draws + 1, handed := s.handed ++ [s.readMessage]
      pollPhase := .evaluating } := by
  rw [pollDispatch, afterRead_eq]

/-- All that the evaluator's transition can be (60_exceptions.md R253, R265). -/
theorem pollEvaluate_cases (s : State) :
    pollEvaluate s = s ∨
    (∃ id payload rest, pollEvaluate s = sendMessage id payload { s with evaluator := rest }) ∨
    (∃ rest, pollEvaluate s = { s with evaluator := rest, pollPhase := .idle }) ∨
    ∃ rest, pollEvaluate s = { s with
      evaluator := rest, events := s.events ++ [.unimplemented], pulses := s.pulses ++ [⟨.error, longErrorPulse⟩]
      pulseLeft := if s.params.pulseBlocks then longErrorPulse else s.pulseLeft, pollPhase := .idle } := by
  unfold pollEvaluate
  split
  · exact .inl rfl
  · exact .inr (.inl ⟨_, _, _, rfl⟩)
  · exact .inr (.inl ⟨_, [], _, rfl⟩)
  · exact .inr (.inr (.inl ⟨_, rfl⟩))
  · exact .inr (.inr (.inr ⟨_, rfl⟩))

/-! The obligations. -/

/-- Settles O54: the poll's first transition is the step and what the dispatcher adds to it; the step itself moves no
pulse. -/
theorem pollMakesOneDecodeStep : Obligations.PollMakesOneDecodeStep := by
  intro s u tick ts rs hturns hrequests hbusy hpulse hphase e
  have hstep : step s = .next (pollAfterStep u) :=
    (step_of_turn hturns).trans ((consumerTurn_poll (s := { s with turns := ts }) ⟨hbusy, hpulse⟩ hphase
      hrequests).trans (pollStart_of_next e))
  obtain ⟨hparams, -, -, hpulses, -, huphase, hleft, -⟩ := exec_frame e nofun
  have hpulse0 : u.pulseLeft = 0 := hleft.trans hpulse
  have hidle : u.pollPhase = .idle := huphase.trans hphase
  have hpulses' : u.pulses = s.pulses := hpulses
  have hparams' : u.params = s.params := hparams
  rw [pollAfterStep_eq, hpulse0, hidle, hpulses', hparams'] at hstep
  exact ⟨_, hstep, rfl, rfl, rfl, by rw [hparams']⟩

/-- Settles O55: the two ends of `CK_VERIFY`, which itself raises and hands on nothing. -/
theorem pollVerifiesTheFrame : Obligations.PollVerifiesTheFrame := by
  intro s u ts hturns hbusy hpulse hphase e
  have hstep : step s = .next (pollAfterVerify u) :=
    (step_of_turn hturns).trans ((consumerTurn_verify (s := { s with turns := ts }) ⟨hbusy, hpulse⟩ hphase).trans
      (pollVerify_of_next e))
  obtain ⟨-, hu⟩ := execCkVerify_cases e
  refine ⟨fun hwrong => ?mismatch, fun hright => ?isMatch⟩
  case mismatch =>
    have hne : u.result ≠ .verified true := by rw [hwrong]; nofun
    have hevents : u.events = s.events := (congrArg State.events hu :)
    have hpulses : u.pulses = s.pulses := (congrArg State.pulses hu :)
    have hparams : u.params = s.params := (congrArg State.params hu :)
    have hleft : u.pulseLeft = 0 := (congrArg State.pulseLeft hu :).trans hpulse
    refine ⟨?_, (congrArg State.handed hu :)⟩
    rw [hstep, pollAfterVerify_of_mismatch hne, hevents, hpulses, hparams, hleft]
    rfl
  case isMatch => rw [hstep, pollAfterVerify_of_match hright]

/-- Settles O56: inside the window the whole message is read as it stands, and each action of the evaluator is one case of
its transition. -/
theorem pollDispatchesTheMessage : Obligations.PollDispatchesTheMessage := by
  refine ⟨fun s ts hturns hbusy hpulse hphase hvalid => ?dispatch,
    fun s ts es hturns hbusy hpulse hphase => ?evaluate⟩
  case dispatch =>
    have hstep : step s = .next (pollDispatch { s with turns := ts }) :=
      (step_of_turn hturns).trans (consumerTurn_dispatch (s := { s with turns := ts }) ⟨hbusy, hpulse⟩ hphase)
    have hmessage := readMessage_of_valid (s := { s with turns := ts }) hvalid
    refine ⟨_, _, hstep, rfl, ?_⟩
    rw [hmessage, pollDispatch_eq, hvalid]
    exact ⟨rfl, rfl, rfl, rfl, rfl⟩
  case evaluate =>
    have hstep : step s = .next (pollEvaluate { s with turns := ts }) :=
      (step_of_turn hturns).trans (consumerTurn_evaluating (s := { s with turns := ts }) ⟨hbusy, hpulse⟩ hphase)
    refine ⟨fun id payload hes => ?send, fun id hes => ?sendEmpty, fun hes => ?unimplemented, fun hes => ?handled⟩
    case send =>
      refine ⟨_, rfl, ?_, ?_, ?_⟩
      · simp only [hstep, pollEvaluate, hes]
      · rw [sendMessage_frame]; exact hphase
      · rw [sendMessage_frame]
    case sendEmpty =>
      refine ⟨_, rfl, ?_, ?_, ?_⟩
      · simp only [hstep, pollEvaluate, hes]
      · rw [sendMessage_frame]; exact hphase
      · rw [sendMessage_frame]
    case unimplemented => simp only [hstep, pollEvaluate, hes, raise_unimplemented, pulse, hpulse]; rfl
    case handled => simp only [hstep, pollEvaluate, hes]

end Sys2Proof.Machine
end

section
/-! What every step keeps (00_scope.md R12; 10_state.md R44; 60_exceptions.md R259; 70_reset_and_hazards.md R280). -/

namespace Sys2Proof.Machine

/-! While C waits. -/

/-- What a transition but `RESET` can change while C is in a send or a blocking pulse: the queue's write side, the
transport, the send itself, and on a time unit what is left of the pulse. -/
theorem Transition.frame_of_waiting {s t : State} {turn : Turn} {o : Host.Outcome State Fault Refusal}
    (h : Transition s turn o) (ho : o = .next t) (hwait : ¬ ConsumerFree s) (hepoch : t.epoch = s.epoch) :
    t = { s with
      qb := t.qb, qIn := t.qIn, qCount := t.qCount, status := t.status, events := t.events, line := t.line
      sent := t.sent, encPos := t.encPos, encBusy := t.encBusy, result := t.result, pulseLeft := t.pulseLeft } ∧
    (t.pulseLeft ≠ s.pulseLeft → turn = .timeUnit) := by
  cases h with
  | idle => cases ho; exact ⟨rfl, fun h => absurd rfl h⟩
  | refused r => cases ho
  | outside hagent hexists =>
    obtain rfl | ⟨x, rfl⟩ | ⟨id, payload, ck, rfl⟩ := eq_of_agent_ne_consumer hagent
    · rw [execReset_frame ho] at hepoch; exact absurd hepoch (Nat.succ_ne_self s.epoch)
    · rcases execQPush_cases ho with ⟨-, -, rfl⟩ | ⟨-, rfl⟩ <;> exact ⟨rfl, fun h => absurd rfl h⟩
    · cases ho; exact ⟨rfl, fun h => absurd rfl h⟩
  | arrive b => cases ho; exact ⟨rfl, fun h => absurd rfl h⟩
  | push hserial hline => rcases execQPush_cases ho with ⟨-, -, rfl⟩ | ⟨-, rfl⟩ <;> exact ⟨rfl, fun h => absurd rfl h⟩
  | accept hbusy =>
    obtain ⟨b, -, ⟨-, rfl⟩ | ⟨-, rfl⟩⟩ := encByteTransition_cases ho <;> exact ⟨rfl, fun h => absurd rfl h⟩
  | timeUnit => cases ho; exact ⟨rfl, fun _ => rfl⟩
  | operation hfree | pollStart hfree | pollVerify hfree | pollDispatch hfree | pollEvaluate hfree =>
    exact absurd hfree hwait

/-- Settles O52: C's turn is to wait, and of the transitions that do not need C free only the time unit moves the pulse. -/
theorem blockedConsumerDoesNothing : Obligations.BlockedConsumerDoesNothing := by
  refine ⟨fun s hwait => ⟨fun ts hturns => ?waits, fun t e hepoch => ?frame⟩, fun s ts hturns => step_of_turn hturns⟩
  case waits => exact (step_of_turn hturns).trans (consumerTurn_waiting (s := { s with turns := ts }) hwait)
  case frame =>
    obtain ⟨-, ho⟩ | ⟨turn, ts, hturns, htransition⟩ := step_cases e
    case inl =>
      cases ho
      exact ⟨rfl, rfl, rfl, rfl, rfl, rfl, rfl, rfl, rfl, rfl, rfl, rfl, rfl, fun h => absurd rfl h⟩
    case inr =>
      have hbusy : ¬ ConsumerFree { s with turns := ts } := fun h =>
        hwait.elim (fun hb => Bool.false_ne_true (h.1.symm.trans hb)) fun hp => hp h.2
      obtain ⟨hframe, hpulse⟩ := htransition.frame_of_waiting rfl hbusy hepoch
      rw [hframe]
      exact ⟨rfl, rfl, rfl, rfl, rfl, rfl, rfl, rfl, rfl, rfl, rfl, rfl, rfl, fun h => ⟨ts, hpulse h ▸ hturns⟩⟩

/-! The operation inside a transition. -/

theorem serialQueued_of_agentExists {a : Agent} {s : State} (h : agentExists a s = true) (ha : a = .producer) :
    s.cfgTransport = .serialQueued := by
  cases hc : s.cfgTransport with
  | serialQueued => rfl
  | usbDirect => rw [agentExists_eq_false.mpr ⟨ha, hc⟩] at h; cases h

theorem pollAfterVerify_frame (u : State) :
    pollAfterVerify u = { u with
      pulses := (pollAfterVerify u).pulses, pulseLeft := (pollAfterVerify u).pulseLeft
      pollPhase := (pollAfterVerify u).pollPhase, events := (pollAfterVerify u).events } := by
  by_cases h : u.result = .verified true
  · rw [pollAfterVerify_of_match h]
  · rw [pollAfterVerify_of_mismatch h]

/-- A transition performs one operation, and inside a poll the dispatcher adds its pulse, its event and its place in the
call; or it is one of the transitions without an operation, which touch neither the queue nor the decoder. -/
theorem Transition.operation_or_frame {s t : State} {turn : Turn} {o : Host.Outcome State Fault Refusal}
    (h : Transition s turn o) (ho : o = .next t) :
    (∃ i u v, exec i u = .next v ∧ selected i u = true ∧ (i.agent = .producer → s.cfgTransport = .serialQueued) ∧
      u = { s with line := u.line, requests := u.requests, evaluator := u.evaluator } ∧
      t = { v with pulses := t.pulses, pulseLeft := t.pulseLeft, pollPhase := t.pollPhase, events := t.events }) ∨
    t = { s with
      line := t.line, sent := t.sent, encPos := t.encPos, encBusy := t.encBusy, result := t.result
      pulses := t.pulses, pulseLeft := t.pulseLeft, handed := t.handed, draws := t.draws, pollPhase := t.pollPhase
      evaluator := t.evaluator, events := t.events } := by
  cases h with
  | idle => cases ho; exact .inr rfl
  | refused r => cases ho
  | outside hagent hexists =>
    exact .inl ⟨_, s, t, ho, selected_of_actionState_none s (actionState_of_agent_ne_consumer hagent),
      serialQueued_of_agentExists hexists, rfl, rfl⟩
  | arrive b => cases ho; exact .inr rfl
  | push hserial hline => exact .inl ⟨_, _, t, ho, selected_of_actionState_none _ rfl, fun _ => hserial, rfl, rfl⟩
  | operation hfree hphase hagent hsel =>
    exact .inl ⟨_, _, t, ho, hsel, fun hp => absurd (hagent.symm.trans hp) nofun, rfl, rfl⟩
  | pollStart hfree hphase =>
    obtain ⟨u, e, rfl⟩ := pollStart_cases ho
    exact .inl ⟨_, _, u, e, selected_of_actionState_none _ rfl, nofun, rfl, by rw [pollAfterStep_eq]⟩
  | pollVerify hfree hphase =>
    obtain ⟨u, e, rfl⟩ := pollVerify_cases ho
    exact .inl ⟨_, s, u, e, selected_of_actionState_none s rfl, nofun, rfl, pollAfterVerify_frame u⟩
  | pollDispatch hfree hphase => cases ho; rw [pollDispatch_eq]; exact .inr rfl
  | pollEvaluate hfree hphase =>
    cases ho
    obtain heq | ⟨id, payload, rest, heq⟩ | ⟨rest, heq⟩ | ⟨rest, heq⟩ := pollEvaluate_cases s <;> rw [heq]
    · exact .inr rfl
    · exact .inl ⟨.txSend id payload, _, _, rfl, selected_of_actionState_none _ rfl, nofun, rfl, rfl⟩
    · exact .inr rfl
    · exact .inr rfl
  | accept hbusy => obtain ⟨b, -, ⟨-, rfl⟩ | ⟨-, rfl⟩⟩ := encByteTransition_cases ho <;> exact .inr rfl
  | timeUnit => cases ho; exact .inr rfl

/-- So a step, but for the turn it takes. -/
theorem step_operation_or_frame {s t : State} (e : step s = .next t) :
    (∃ i u v, exec i u = .next v ∧ selected i u = true ∧ (i.agent = .producer → s.cfgTransport = .serialQueued) ∧
      u = { s with line := u.line, requests := u.requests, evaluator := u.evaluator, turns := u.turns } ∧
      t = { v with pulses := t.pulses, pulseLeft := t.pulseLeft, pollPhase := t.pollPhase, events := t.events }) ∨
    t = { s with
      line := t.line, sent := t.sent, encPos := t.encPos, encBusy := t.encBusy, result := t.result
      pulses := t.pulses, pulseLeft := t.pulseLeft, handed := t.handed, draws := t.draws, pollPhase := t.pollPhase
      evaluator := t.evaluator, events := t.events, turns := t.turns } := by
  obtain ⟨-, ho⟩ | ⟨turn, ts, -, htransition⟩ := step_cases e
  · cases ho; exact .inr rfl
  obtain ⟨i, u, v, hexec, hsel, hserial, hu, ht⟩ | ht := htransition.operation_or_frame rfl
  · exact .inl ⟨i, u, v, hexec, hsel, hserial, by rw [hu], ht⟩
  · exact .inr (by rw [ht])

/-- Settles O59: an operation keeps both but for `RESET`, which copies the parameter; no other transition touches them. -/
theorem transportIsFixedBetweenResets : Obligations.TransportIsFixedBetweenResets := by
  intro s t e
  obtain ⟨i, u, v, hexec, -, -, hu, ht⟩ | ht := step_operation_or_frame e
  case inr => rw [ht]; exact ⟨rfl, .inl rfl⟩
  case inl =>
    rw [ht, show s.params = u.params by rw [hu], show s.cfgTransport = u.cfgTransport by rw [hu],
      show s.epoch = u.epoch by rw [hu]]
    by_cases hreset : i = .reset
    · subst hreset
      rw [execReset_frame hexec]
      exact ⟨rfl, .inr ⟨rfl, rfl⟩⟩
    · obtain ⟨hparams, htransport, -⟩ := exec_frame hexec hreset
      exact ⟨hparams, .inl htransport⟩

/-- Settles O57: the frames of the operations name the writers; under `UsbDirect` no transition is a push. -/
theorem queueRegistersHaveTheirWriters : Obligations.QueueRegistersHaveTheirWriters := by
  refine ⟨fun i s t e => ⟨fun hin => ?qIn, fun hout => ?qOut, fun hcount => ?qCount⟩, fun s t husb e hepoch => ?usbDirect⟩
  case qIn =>
    by_contra hother
    obtain ⟨hreset, hpush⟩ := not_or.mp hother
    exact hin (exec_write_side_frame e hreset fun x h => hpush ⟨x, h⟩).1
  case qOut =>
    by_contra hother
    obtain ⟨hreset, hother⟩ := not_or.mp hother
    obtain ⟨hpop, hstep⟩ := not_or.mp hother
    exact hout (exec_read_side_frame e hreset hpop fun tick h => hstep ⟨tick, h⟩)
  case qCount =>
    by_contra hother
    obtain ⟨hreset, hother⟩ := not_or.mp hother
    obtain ⟨hpush, hother⟩ := not_or.mp hother
    obtain ⟨hpop, hstep⟩ := not_or.mp hother
    exact hcount (exec_queue_frame e hreset (fun x h => hpush ⟨x, h⟩) hpop fun tick h => hstep ⟨tick, h⟩).2.2.1
  case usbDirect =>
    obtain ⟨i, u, v, hexec, hsel, hserial, hu, ht⟩ | ht := step_operation_or_frame e
    case inr => rw [ht]; exact ⟨rfl, rfl, id⟩
    case inl =>
      have hpush : ∀ x, i ≠ .qPush x := by
        rintro x rfl
        exact absurd (husb.symm.trans (hserial rfl)) nofun
      have hreset : i ≠ .reset := by
        rintro rfl
        rw [ht, execReset_frame hexec, hu] at hepoch
        exact absurd hepoch (Nat.succ_ne_self s.epoch)
      have hovf : v.qOvf = true → u.qOvf = true := exec_qOvf hexec hpush hsel
      obtain ⟨hin, hqb⟩ := exec_write_side_frame hexec hreset hpush
      rw [hu] at hin hqb hovf
      rw [ht]
      exact ⟨hin, hqb, hovf⟩

/-! The records of what happened. -/

/-- The record has at most one more entry, at its end. -/
abbrev GrowsByOne {α : Type} (before after : List α) : Prop := ∃ new, after = before ++ new ∧ new.length ≤ 1

theorem GrowsByOne.refl {α : Type} (l : List α) : GrowsByOne l l := ⟨[], (List.append_nil l).symm, Nat.zero_le 1⟩

theorem GrowsByOne.one {α : Type} (l : List α) (a : α) : GrowsByOne l (l ++ [a]) := ⟨[a], rfl, Nat.le_refl 1⟩

theorem GrowsByOne.of_eq_or {α : Type} {l l' : List α} {a : α} (h : l' = l ∨ l' = l ++ [a]) : GrowsByOne l l' := by
  rcases h with rfl | rfl
  · exact .refl _
  · exact .one l a

/-- The events of one `DEC_STEP` (60_exceptions.md R259): after a timeout the decoder is in `AwaitSync0`, whose action
raises none. -/
theorem exec_decStep_events {tick : Nat} {s t : State} (e : exec (.decStep tick) s = .next t) :
    GrowsByOne s.events t.events := by
  by_cases hout : s.timedOut tick = true
  case neg => exact .of_eq_or (execDecStep_events_of_not_timedOut hout e)
  case pos =>
    obtain ⟨-, rfl⟩ | ⟨b, u, -, hact, hu⟩ := exec_decStep_cases e (resyncCheck_of_timedOut hout)
    · exact .one s.events .resync
    · rw [byteAction_events_of_awaitSync0 hact (congrArg State.dstate hu :),
        (congrArg State.events hu : u.events = s.events ++ [.resync])]
      exact .one s.events .resync

/-- One operation raises at most one event, and hands nothing out. -/
theorem exec_history {i : Instr} {s t : State} (e : exec i s = .next t) (hsel : selected i s = true) :
    GrowsByOne s.events t.events ∧ t.sent = s.sent ∧ t.pulses = s.pulses ∧ t.handed = s.handed := by
  by_cases hreset : i = .reset
  case pos => subst hreset; rw [execReset_frame e]; exact ⟨.refl _, rfl, rfl, rfl⟩
  obtain ⟨-, -, hsent, hpulses, hhanded, -⟩ := exec_frame e hreset
  refine ⟨?_, hsent, hpulses, hhanded⟩
  cases haction : actionState i with
  | some d =>
    obtain ⟨-, tick, b, -, hexec⟩ := exists_byteAction_of_selected haction hsel
    exact .of_eq_or (byteAction_events (hexec ▸ e))
  | none =>
    by_cases hpush : ∃ x, i = .qPush x
    · obtain ⟨x, rfl⟩ := hpush
      rcases execQPush_cases e with ⟨-, -, rfl⟩ | ⟨-, rfl⟩
      · exact .refl _
      · exact .one _ _
    by_cases hpop : i = .qPop
    · subst hpop
      rcases execQPop_cases e with ⟨-, rfl⟩ | ⟨-, -, rfl⟩ <;> exact .refl _
    by_cases hstep : ∃ tick, i = .decStep tick
    · obtain ⟨tick, rfl⟩ := hstep
      exact exec_decStep_events e
    · exact .of_eq_or (exec_frame_of_not_queue e hreset (fun x h => hpush ⟨x, h⟩) hpop
        (fun tick h => hstep ⟨tick, h⟩) haction).2.1

/-- Each of the four records has at most one more entry. -/
abbrev HistoryGrows (s t : State) : Prop :=
  GrowsByOne s.events t.events ∧ GrowsByOne s.sent t.sent ∧ GrowsByOne s.pulses t.pulses ∧ GrowsByOne s.handed t.handed

theorem HistoryGrows.of_same {s t : State} (hevents : t.events = s.events) (hsent : t.sent = s.sent)
    (hpulses : t.pulses = s.pulses) (hhanded : t.handed = s.handed) : HistoryGrows s t := by
  rw [HistoryGrows, hevents, hsent, hpulses, hhanded]
  exact ⟨.refl _, .refl _, .refl _, .refl _⟩

theorem exec_historyGrows {i : Instr} {s t : State} (e : exec i s = .next t) (hsel : selected i s = true) :
    HistoryGrows s t := by
  obtain ⟨hevents, hsent, hpulses, hhanded⟩ := exec_history e hsel
  rw [HistoryGrows, hsent, hpulses, hhanded]
  exact ⟨hevents, .refl _, .refl _, .refl _⟩

/-- So a poll's first transition, with the activity pulse. -/
theorem pollStart_historyGrows {tick : Nat} {s t : State} (h : pollStart tick s = .next t) : HistoryGrows s t := by
  obtain ⟨u, e, rfl⟩ := pollStart_cases h
  obtain ⟨hevents, hsent, hpulses, hhanded⟩ := exec_history e (selected_of_actionState_none s rfl)
  rw [HistoryGrows, pollAfterStep_eq, hsent, hpulses, hhanded]
  refine ⟨hevents, .refl _, ?_, .refl _⟩
  cases u.result.consumed
  · exact ⟨[], rfl, Nat.zero_le 1⟩
  · exact .one _ _

/-- So its verification: `CK_VERIFY` raises nothing, and the dispatcher at most the mismatch and its pulse. -/
theorem pollVerify_historyGrows {s t : State} (h : pollVerify s = .next t) : HistoryGrows s t := by
  obtain ⟨u, e, rfl⟩ := pollVerify_cases h
  obtain ⟨-, hu⟩ := execCkVerify_cases e
  by_cases hmatch : u.result = .verified true
  · rw [pollAfterVerify_of_match hmatch, hu]
    exact .of_same rfl rfl rfl rfl
  · rw [HistoryGrows, pollAfterVerify_of_mismatch hmatch, hu]
    exact ⟨.one _ _, .refl _, .one _ _, .refl _⟩

theorem pollEvaluate_historyGrows (s : State) : HistoryGrows s (pollEvaluate s) := by
  obtain heq | ⟨id, payload, rest, heq⟩ | ⟨rest, heq⟩ | ⟨rest, heq⟩ := pollEvaluate_cases s <;> rw [heq]
  · exact .of_same rfl rfl rfl rfl
  · exact exec_historyGrows (i := .txSend id payload) (s := { s with evaluator := rest }) rfl
      (selected_of_actionState_none _ rfl)
  · exact .of_same rfl rfl rfl rfl
  · exact ⟨.one _ _, .refl _, .one _ _, .refl _⟩

theorem Transition.historyGrows {s t : State} {turn : Turn} {o : Host.Outcome State Fault Refusal}
    (h : Transition s turn o) (ho : o = .next t) : HistoryGrows s t := by
  cases h with
  | idle => cases ho; exact .of_same rfl rfl rfl rfl
  | refused r => cases ho
  | outside hagent hexists =>
    exact exec_historyGrows ho (selected_of_actionState_none s (actionState_of_agent_ne_consumer hagent))
  | arrive b => cases ho; exact .of_same rfl rfl rfl rfl
  | push hserial hline => exact (exec_historyGrows ho (selected_of_actionState_none _ rfl) :)
  | operation hfree hphase hagent hsel => exact (exec_historyGrows ho hsel :)
  | pollStart hfree hphase => exact (pollStart_historyGrows ho :)
  | pollVerify hfree hphase => exact pollVerify_historyGrows ho
  | pollDispatch hfree hphase =>
    cases ho
    rw [HistoryGrows, pollDispatch_eq]
    exact ⟨.refl _, .refl _, .refl _, .one _ _⟩
  | pollEvaluate hfree hphase => cases ho; exact pollEvaluate_historyGrows s
  | accept hbusy =>
    obtain ⟨b, -, ⟨-, rfl⟩ | ⟨-, rfl⟩⟩ := encByteTransition_cases ho <;>
      exact ⟨.refl _, .one _ _, .refl _, .refl _⟩
  | timeUnit => cases ho; exact .of_same rfl rfl rfl rfl

/-- Settles O60: a step is one transition or none. -/
theorem historyOnlyGrows : Obligations.HistoryOnlyGrows := by
  intro s t e
  obtain ⟨-, ho⟩ | ⟨turn, ts, -, htransition⟩ := step_cases e
  · cases ho; exact HistoryGrows.of_same rfl rfl rfl rfl
  · exact htransition.historyGrows rfl

end Sys2Proof.Machine
end

section
/-! What keeps each part of the machine's invariant (10_state.md R50). -/

namespace Sys2Proof.Machine

/-! Each part is about some registers alone. -/

theorem WindowInv.congr {s t : State} (h : WindowInv s) (hparams : t.params = s.params) (hlen : t.rxLen = s.rxLen)
    (hvalid : t.rxValid = s.rxValid) (hdstate : t.dstate = s.dstate) (hphase : t.pollPhase = s.pollPhase) :
    WindowInv t where
  len_le := by rw [hparams, hlen, hvalid]; exact h.len_le
  early := by rw [hdstate, hvalid]; exact h.early
  polling := by rw [hphase, hvalid]; exact h.polling

theorem EncoderInv.congr {s t : State} (h : EncoderInv s) (hparams : t.params = s.params) (hbusy : t.encBusy = s.encBusy)
    (hpos : t.encPos = s.encPos) (hlen : t.txLen = s.txLen) (htxm : t.txm = s.txm) : EncoderInv t where
  len_le := by rw [hparams, hbusy, hlen]; exact h.len_le
  pos_lt := by rw [hbusy, hpos, hlen]; exact h.pos_lt
  txm_full := by rw [hbusy, hlen, htxm]; exact h.txm_full

theorem MemoryInv.congr {s t : State} (h : MemoryInv s) (hparams : t.params = s.params) (hpl : t.pl = s.pl)
    (hqb : t.qb = s.qb) (htxm : t.txm = s.txm) : MemoryInv t where
  pl_wf := by rw [hpl]; exact h.pl_wf
  qb_wf := by rw [hqb]; exact h.qb_wf
  txm_wf := by rw [htxm]; exact h.txm_wf
  pl_in := by rw [hpl, hparams]; exact h.pl_in
  qb_in := by rw [hqb, hparams]; exact h.qb_in

theorem PulseInv.congr {s t : State} (h : PulseInv s) (hparams : t.params = s.params) (hleft : t.pulseLeft = s.pulseLeft)
    (hbusy : t.encBusy = s.encBusy) : PulseInv t where
  blocks := by rw [hparams, hleft]; exact h.blocks
  alone := by rw [hleft, hbusy]; exact h.alone

/-- The registers, records and inputs that the invariant says nothing of. -/
theorem StateInv.frame {s t : State} (h : StateInv s) (e : t = { s with
      cfgTransport := t.cfgTransport, rxId := t.rxId, rxCk := t.rxCk, ckA := t.ckA, ckB := t.ckB, status := t.status
      txId := t.txId, txCk := t.txCk, result := t.result, events := t.events, sent := t.sent, pulses := t.pulses
      handed := t.handed, line := t.line, evaluator := t.evaluator, requests := t.requests, turns := t.turns
      epoch := t.epoch, draws := t.draws }) : StateInv t := by
  rw [e]
  exact ⟨h.legal, h.queue.congr rfl rfl rfl rfl, h.decoder.congr rfl rfl rfl rfl rfl, h.window.congr rfl rfl rfl rfl rfl,
    h.encoder.congr rfl rfl rfl rfl rfl, h.memory.congr rfl rfl rfl rfl, h.pulse.congr rfl rfl rfl⟩

/-! What establishes each part. -/

theorem WindowInv.of_closed {s : State} (hvalid : s.rxValid = false) (hphase : s.pollPhase = .idle) : WindowInv s where
  len_le h := by rw [hvalid] at h; cases h
  early h := by rw [hvalid] at h; cases h
  polling h := absurd hphase h

theorem EncoderInv.of_not_busy {s : State} (hbusy : s.encBusy = false) : EncoderInv s where
  len_le h := by rw [hbusy] at h; cases h
  pos_lt h := by rw [hbusy] at h; cases h
  txm_full h := by rw [hbusy] at h; cases h

theorem PulseInv.of_no_pulse {s : State} (hleft : s.pulseLeft = 0) : PulseInv s where
  blocks h := absurd hleft h
  alone h := absurd hleft h

theorem MemoryInv.setPl {s : State} (h : MemoryInv s) {a : Nat} (ha : a < s.params.payloadCap) (v : Byte) :
    MemoryInv { s with pl := Mem.set s.pl a v } where
  pl_wf := Mem.wf_set h.pl_wf a v
  qb_wf := h.qb_wf
  txm_wf := h.txm_wf
  pl_in c hc := (Mem.mem_set hc).elim (fun heq => heq ▸ ha) (h.pl_in c)
  qb_in := h.qb_in

theorem MemoryInv.setQb {s : State} (h : MemoryInv s) {a : Nat} (ha : a < s.params.queueCap) (v : Byte) :
    MemoryInv { s with qb := Mem.set s.qb a v } where
  pl_wf := h.pl_wf
  qb_wf := Mem.wf_set h.qb_wf a v
  txm_wf := h.txm_wf
  pl_in := h.pl_in
  qb_in c hc := (Mem.mem_set hc).elim (fun heq => heq ▸ ha) (h.qb_in c)

/-- The values of R49's table have the invariant, whatever is unspecified. -/
theorem StateInv.of_reset {s : State} (hlegal : s.params.legal) (hin : s.qIn = 0) (hout : s.qOut = 0)
    (hcount : s.qCount = 0) (hdstate : s.dstate = .awaitSync0) (hmark : s.tMark < 2 ^ s.params.tickW)
    (hvalid : s.rxValid = false) (hphase : s.pollPhase = .idle) (hbusy : s.encBusy = false) (hpulse : s.pulseLeft = 0)
    (hpl : s.pl = []) (hqb : s.qb = []) (htxm : Mem.wf s.txm) : StateInv s where
  legal := hlegal
  queue := ⟨hcount ▸ Nat.zero_le _, hin ▸ hlegal.2.1, hout ▸ hlegal.2.1, by rw [hin, hout, hcount]; exact Nat.zero_mod _⟩
  decoder := .of_not_counting hmark (by rw [hdstate]; nofun) (by rw [hdstate]; nofun) (by rw [hdstate]; nofun)
  window := .of_closed hvalid hphase
  encoder := .of_not_busy hbusy
  memory := ⟨hpl ▸ .nil, hqb ▸ .nil, htxm, by rw [hpl]; nofun, by rw [hqb]; nofun⟩
  pulse := .of_no_pulse hpulse

/-- Settles O10: the reset state has the table's values and empty memories. -/
theorem resetStateHasTheInvariant : Obligations.ResetStateHasTheInvariant := by
  have hall : ∀ p : Params, p.legal → StateInv (State.resetOf p) := fun p hlegal =>
    .of_reset hlegal rfl rfl rfl rfl (Nat.two_pow_pos _) rfl rfl rfl rfl rfl rfl .nil
  exact ⟨hall, hall Config.illustrative (by decide)⟩

/-- Settles O12: `RESET` sets the table's values, and reduces `T_MARK` to its width. -/
theorem resetEstablishesTheInvariant : Obligations.ResetEstablishesTheInvariant :=
  fun _ hlegal htxm => ⟨_, rfl, .of_reset hlegal rfl rfl rfl rfl (Nat.mod_lt _ (Nat.two_pow_pos _)) rfl rfl rfl rfl rfl
    rfl htxm⟩

end Sys2Proof.Machine
end

section
/-! Every operation keeps the invariant where its agent may perform it (10_state.md R50, 20_memory.md R77). -/

namespace Sys2Proof.Machine

/-! The decoder. -/

/-- The action on a byte, decoder and window and memory: it opens the window only at the end of a frame within capacity, and
counts only lengths within it. -/
theorem StateInv.byteAction {tick : Nat} {b : Byte} {s t : State} (h : StateInv s) (hphase : s.pollPhase = .idle)
    (e : byteAction tick b s = .next t) : StateInv t := by
  obtain ⟨hdecoder, hwindow, hmemory⟩ : DecoderInv t ∧ WindowInv t ∧ MemoryInv t := by
    have hmark := h.decoder.mark_lt
    rw [← exec_actionFor s.dstate tick b s rfl] at e
    cases hd : s.dstate with
    | awaitSync0 =>
      rw [hd] at e
      rcases execActAwaitSync0_cases e with ⟨-, rfl⟩ | ⟨-, rfl⟩
      · refine ⟨.of_not_counting (Nat.mod_lt _ (Nat.two_pow_pos _)) nofun nofun nofun,
          ⟨h.window.len_le, fun _ => .inr (.inl rfl), h.window.polling⟩, h.memory.congr rfl rfl rfl rfl⟩
      · exact ⟨h.decoder.congr rfl rfl rfl rfl rfl, h.window.congr rfl rfl rfl rfl rfl, h.memory.congr rfl rfl rfl rfl⟩
    | awaitSync1 =>
      rw [hd] at e
      rcases execActAwaitSync1_cases e with ⟨-, rfl⟩ | ⟨-, rfl⟩
      · exact ⟨.of_not_counting hmark nofun nofun nofun,
          ⟨h.window.len_le, fun _ => .inr (.inr rfl), h.window.polling⟩, h.memory.congr rfl rfl rfl rfl⟩
      · exact ⟨.of_not_counting hmark nofun nofun nofun,
          ⟨h.window.len_le, fun _ => .inl rfl, h.window.polling⟩, h.memory.congr rfl rfl rfl rfl⟩
    | identifierLow | identifierHigh | lengthLow =>
      rw [hd] at e
      cases e
      exact ⟨.of_not_counting hmark nofun nofun nofun, .of_closed rfl hphase, h.memory.congr rfl rfl rfl rfl⟩
    | lengthHigh =>
      rw [hd] at e
      rcases execActLengthHigh_cases e with ⟨hzero, rfl⟩ | ⟨-, rfl⟩ | ⟨hzero, hfits, rfl⟩
      · refine ⟨⟨nofun, fun _ => ⟨hzero, ?_⟩, hmark⟩, .of_closed rfl hphase, h.memory.congr rfl rfl rfl rfl⟩
        show (withHighByte s.rxLen b).toNat ≤ _
        rw [hzero]
        exact Nat.zero_le _
      · exact ⟨.of_not_counting hmark nofun nofun nofun, .of_closed rfl hphase, h.memory.congr rfl rfl rfl rfl⟩
      · have hpos : 1 ≤ (withHighByte s.rxLen b).toNat :=
          Nat.one_le_iff_ne_zero.mpr fun h0 => hzero (BitVec.eq_of_toNat_eq h0)
        exact ⟨⟨fun _ => ⟨hpos, Nat.le_refl _, hfits⟩, nofun, hmark⟩, .of_closed rfl hphase,
          h.memory.congr rfl rfl rfl rfl⟩
    | payload =>
      rw [hd] at e
      obtain ⟨hpos, hle, hcap⟩ := h.decoder.payload hd
      obtain ⟨hne, -, haddr, rfl⟩ := execActPayload_cases e
      have hcount : (s.remaining - 1).toNat = s.remaining.toNat - 1 := by bv_omega
      refine ⟨?_, .of_closed rfl hphase, (h.memory.setPl haddr b).congr rfl rfl rfl rfl⟩
      by_cases hlast : s.remaining - 1 = 0
      · simp only [if_pos hlast]
        exact ⟨nofun, fun _ => ⟨hlast, hcap⟩, hmark⟩
      · have hmore : 1 ≤ (s.remaining - 1).toNat :=
          Nat.one_le_iff_ne_zero.mpr fun h0 => hlast (BitVec.eq_of_toNat_eq h0)
        simp only [if_neg hlast, hd]
        exact ⟨fun _ => ⟨hmore, hcount ▸ (Nat.sub_le _ _).trans hle, hcap⟩, nofun, hmark⟩
    | checksumLow =>
      rw [hd] at e
      cases e
      exact ⟨⟨nofun, fun _ => h.decoder.checksum (.inl hd), hmark⟩, .of_closed rfl hphase, h.memory.congr rfl rfl rfl rfl⟩
    | checksumHigh =>
      rw [hd] at e
      cases e
      exact ⟨.of_not_counting hmark nofun nofun nofun,
        ⟨fun _ => (h.decoder.checksum (.inr hd)).2, fun _ => .inl rfl, fun _ => rfl⟩, h.memory.congr rfl rfl rfl rfl⟩
  rw [(byteAction_cases e).1] at *
  exact ⟨h.legal, h.queue.congr rfl rfl rfl rfl, hdecoder, hwindow, h.encoder.congr rfl rfl rfl rfl rfl, hmemory,
    h.pulse.congr rfl rfl rfl⟩

theorem StateInv.resyncCheck {s : State} (h : StateInv s) (tick : Nat) : StateInv (resyncCheck tick s) := by
  rcases resyncCheck_cases tick s with ⟨-, heq⟩ | ⟨-, -, -, heq⟩ <;> rw [heq]
  · exact h
  · exact ⟨h.legal, h.queue.congr rfl rfl rfl rfl, .of_not_counting h.decoder.mark_lt nofun nofun nofun, ⟨h.window.len_le, fun _ => .inl rfl, h.window.polling⟩,
      h.encoder.congr rfl rfl rfl rfl rfl, h.memory.congr rfl rfl rfl rfl, h.pulse.congr rfl rfl rfl⟩

/-- A pop moves the queue's read side alone. -/
theorem StateInv.pop {s : State} (h : StateInv s) (hbyte : s.qCount ≠ 0) :
    StateInv { s with qOut := (s.qOut + 1) % s.params.queueCap, qCount := s.qCount - 1 } :=
  ⟨h.legal, h.queue.pop hbyte, h.decoder.congr rfl rfl rfl rfl rfl, h.window.congr rfl rfl rfl rfl rfl,
    h.encoder.congr rfl rfl rfl rfl rfl, h.memory.congr rfl rfl rfl rfl, h.pulse.congr rfl rfl rfl⟩

theorem StateInv.tryReadByte {s u : State} {r : Option Byte} (h : StateInv s) (hread : tryReadByte s = some (r, u)) :
    StateInv u := by
  rcases tryReadByte_cases hread with ⟨-, rfl⟩ | ⟨b, -, -, hbyte, -, -, rfl⟩ | ⟨b, rest, -, -, -, rfl⟩
  · exact h
  · exact h.pop hbyte
  · exact h.frame rfl

theorem StateInv.decStep {tick : Nat} {s t : State} (h : StateInv s) (hphase : s.pollPhase = .idle)
    (e : exec (.decStep tick) s = .next t) : StateInv t := by
  have hidle : (Machine.resyncCheck tick s).pollPhase = .idle := by
    rcases resyncCheck_cases tick s with ⟨-, heq⟩ | ⟨-, -, -, heq⟩ <;> rw [heq] <;> exact hphase
  obtain ⟨r, u, hread, hact⟩ := execDecStep_cases e
  have hu := (h.resyncCheck tick).tryReadByte hread
  rcases hact with ⟨-, rfl⟩ | ⟨b, -, hact⟩
  · exact hu.frame rfl
  · have hframe := (tryReadByte_pending hread).1
    exact hu.byteAction ((congrArg State.pollPhase hframe :).trans hidle) hact

theorem StateInv.decReset {s t : State} (h : StateInv s) (hphase : s.pollPhase = .idle)
    (e : exec .decReset s = .next t) : StateInv t := by
  cases e
  exact ⟨h.legal, h.queue.congr rfl rfl rfl rfl, .of_not_counting h.decoder.mark_lt nofun nofun nofun,
    ⟨fun hvalid => h.window.len_le (Bool.and_eq_true_iff.mp hvalid).1, fun _ => .inl rfl, fun hne => absurd hphase hne⟩,
    h.encoder.congr rfl rfl rfl rfl rfl, h.memory.congr rfl rfl rfl rfl, h.pulse.congr rfl rfl rfl⟩

/-! The queue and the sends. -/

theorem StateInv.qPush {x : Byte} {s t : State} (h : StateInv s) (e : exec (.qPush x) s = .next t) : StateInv t := by
  rcases execQPush_cases e with ⟨hroom, hin, rfl⟩ | ⟨-, rfl⟩
  · exact ⟨h.legal, h.queue.push hroom x, h.decoder.congr rfl rfl rfl rfl rfl, h.window.congr rfl rfl rfl rfl rfl,
      h.encoder.congr rfl rfl rfl rfl rfl, (h.memory.setQb hin x).congr rfl rfl rfl rfl, h.pulse.congr rfl rfl rfl⟩
  · exact h.frame rfl

theorem StateInv.qPop {s t : State} (h : StateInv s) (e : exec .qPop s = .next t) : StateInv t := by
  rcases execQPop_cases e with ⟨-, rfl⟩ | ⟨hbyte, -, rfl⟩
  · exact h.frame rfl
  · exact (h.pop hbyte).frame rfl

/-- R50 item 6 at the start of a send. -/
theorem StateInv.startFrame {s : State} (h : StateInv s) (hpulse : s.pulseLeft = 0) (id : Word16) {payload : List Byte}
    (ck : Word16) (hfits : payload.length ≤ s.params.payloadCap) : StateInv (startFrame id payload ck s) := by
  have hlen : (lenField payload).toNat = payload.length := lenField_toNat payload (by have := h.legal.1; omega)
  refine ⟨h.legal, h.queue.congr rfl rfl rfl rfl, h.decoder.congr rfl rfl rfl rfl rfl,
    h.window.congr rfl rfl rfl rfl rfl, ⟨fun _ => ?len, fun _ => ?pos, fun _ => ?full⟩,
    ⟨h.memory.pl_wf, h.memory.qb_wf, Mem.wf_ofBytes payload, h.memory.pl_in, h.memory.qb_in⟩, .of_no_pulse hpulse⟩
  case len => exact hlen.trans_le hfits
  case pos => exact Nat.succ_pos _
  case full => exact (Mem.ofBytes_map_fst payload).trans (congrArg List.range hlen.symm)

theorem StateInv.sendMessage {s : State} (h : StateInv s) (hpulse : s.pulseLeft = 0) (id : Word16)
    (payload : List Byte) : StateInv (sendMessage id payload s) := by
  obtain ⟨-, heq⟩ | ⟨hfits, heq⟩ := sendMessage_cases id payload s <;> rw [heq]
  · exact h.frame rfl
  · have hck : StateInv (ckMessage id payload s) := by rw [ckMessage_eq]; exact h.frame rfl
    have hleft : (ckMessage id payload s).pulseLeft = 0 := by rw [ckMessage_eq]; exact hpulse
    have hparams : (ckMessage id payload s).params = s.params := by rw [ckMessage_eq]
    exact hck.startFrame hleft id (messageCk id payload) (hparams ▸ hfits)

/-- R212: the position stays within the frame until the send ends. -/
theorem StateInv.encByteTransition {s t : State} (h : StateInv s) (e : encByteTransition s = .next t) : StateInv t := by
  obtain ⟨b, hb, ⟨-, rfl⟩ | ⟨hmore, rfl⟩⟩ := encByteTransition_cases e
  case inl =>
    exact ⟨h.legal, h.queue.congr rfl rfl rfl rfl, h.decoder.congr rfl rfl rfl rfl rfl,
      h.window.congr rfl rfl rfl rfl rfl, .of_not_busy rfl, h.memory.congr rfl rfl rfl rfl,
      ⟨h.pulse.blocks, fun _ => rfl⟩⟩
  case inr =>
    have hpos : (s.encPos + 1).toNat < s.txLen.toNat + 8 := by
      have hbefore := encByte_position hb
      rw [encPos_succ_toNat hbefore] at hmore ⊢
      omega
    exact ⟨h.legal, h.queue.congr rfl rfl rfl rfl, h.decoder.congr rfl rfl rfl rfl rfl,
      h.window.congr rfl rfl rfl rfl rfl, ⟨h.encoder.len_le, fun _ => hpos, h.encoder.txm_full⟩,
      h.memory.congr rfl rfl rfl rfl, h.pulse.congr rfl rfl rfl⟩

/-! Any operation. -/

theorem StateInv.reset {s t : State} (h : StateInv s) (e : exec .reset s = .next t) : StateInv t := by
  obtain ⟨u, hu, hinv⟩ := resetEstablishesTheInvariant s h.legal h.memory.txm_wf
  cases hu.symm.trans e
  exact hinv

/-- An operation keeps the invariant: C's while C is free, and inside a poll those of the poll (70_reset_and_hazards.md
R291); the other agents' at any time. -/
theorem StateInv.exec {i : Instr} {s t : State} (h : StateInv s) (hsel : selected i s = true)
    (hfree : i.agent = .consumer → s.pulseLeft = 0 ∧ s.pollPhase = .idle) (e : exec i s = .next t) : StateInv t := by
  cases haction : actionState i with
  | some d =>
    obtain ⟨-, tick, b, rfl, hexec⟩ := exists_byteAction_of_selected haction hsel
    exact h.byteAction (hfree (by cases d <;> rfl)).2 (hexec ▸ e)
  | none =>
    cases i with
    | reset => exact h.reset e
    | qPush x => exact h.qPush e
    | qPop => exact h.qPop e
    | decStep tick => exact h.decStep (hfree rfl).2 e
    | decReset => exact h.decReset (hfree rfl).2 e
    | msgRead sel idx => exact h.frame (by rw [execMsgRead_frame e])
    | ckMsg id payload =>
      rcases Nat.lt_or_ge s.params.payloadCap payload.length with hlong | hfits
      · cases (exec_ckMsg_of_tooLong id hlong).symm.trans e; exact h.frame rfl
      · cases (exec_ckMsg_of_fits id hfits).symm.trans e; exact h.frame rfl
    | ckVerify => obtain ⟨-, rfl⟩ := execCkVerify_cases e; exact h.frame rfl
    | encFrame id payload ck =>
      rcases Nat.lt_or_ge s.params.payloadCap payload.length with hlong | hfits
      · cases (exec_encFrame_of_tooLong id ck hlong).symm.trans e; exact h.frame rfl
      · cases (exec_encFrame_of_fits id ck hfits).symm.trans e; exact h.startFrame (hfree rfl).1 id ck hfits
    | txSend id payload => cases e; exact h.sendMessage (hfree rfl).1 id payload
    | txSendEmpty id => cases e; exact h.sendMessage (hfree rfl).1 id []
    | statusRead | statusClear | ckInit | ckUpdate | ckResult | frame => cases e; exact h.frame rfl
    | _ => cases haction

/-! The dispatcher. -/

theorem StateInv.leavePoll {s : State} (h : StateInv s) : StateInv { s with pollPhase := .idle } :=
  ⟨h.legal, h.queue.congr rfl rfl rfl rfl, h.decoder.congr rfl rfl rfl rfl rfl,
    ⟨h.window.len_le, h.window.early, fun hne => absurd rfl hne⟩, h.encoder.congr rfl rfl rfl rfl rfl,
    h.memory.congr rfl rfl rfl rfl, h.pulse.congr rfl rfl rfl⟩

/-- With the window open C may stand anywhere in a poll. -/
theorem StateInv.enterPoll {s : State} (h : StateInv s) (hvalid : s.rxValid = true) (phase : PollPhase) :
    StateInv { s with pollPhase := phase } :=
  ⟨h.legal, h.queue.congr rfl rfl rfl rfl, h.decoder.congr rfl rfl rfl rfl rfl,
    ⟨h.window.len_le, h.window.early, fun _ => hvalid⟩, h.encoder.congr rfl rfl rfl rfl rfl,
    h.memory.congr rfl rfl rfl rfl, h.pulse.congr rfl rfl rfl⟩

/-- A pulse outside a send holds C only where pulses block (log 24). -/
theorem StateInv.pulsed {s : State} (h : StateInv s) (hbusy : s.encBusy = false) (duration : Nat) :
    StateInv { s with pulseLeft := if s.params.pulseBlocks then duration else s.pulseLeft } := by
  refine ⟨h.legal, h.queue.congr rfl rfl rfl rfl, h.decoder.congr rfl rfl rfl rfl rfl,
    h.window.congr rfl rfl rfl rfl rfl, h.encoder.congr rfl rfl rfl rfl rfl, h.memory.congr rfl rfl rfl rfl,
    ⟨fun hleft => ?_, fun _ => hbusy⟩⟩
  by_contra hblocks
  exact hblocks (h.pulse.blocks (by rwa [if_neg hblocks] at hleft))

/-- A poll's first transition: only a completed frame is gone on with, and it has opened the window. -/
theorem StateInv.pollStart {tick : Nat} {s t : State} (h : StateInv s) (hfree : ConsumerFree s)
    (hphase : s.pollPhase = .idle) (e : pollStart tick s = .next t) : StateInv t := by
  obtain ⟨u, hstep, rfl⟩ := pollStart_cases e
  have hu := h.decStep hphase hstep
  have hbusy : u.encBusy = false := (congrArg State.encBusy (execDecStep_frame hstep) :).trans hfree.1
  have hpulsed : StateInv { u with
      pulseLeft := if u.result.consumed && u.params.pulseBlocks then activityPulse else u.pulseLeft } := by
    cases u.result.consumed
    · exact hu
    · exact hu.pulsed hbusy activityPulse
  rw [pollAfterStep_eq]
  cases hcomplete : u.result.complete with
  | false => exact hpulsed.frame rfl
  | true =>
    obtain ⟨-, -, -, hvalid, -⟩ := completeOnlyFromChecksumHigh s u tick hstep hcomplete
    exact (hpulsed.enterPoll hvalid .verify).frame rfl

theorem StateInv.pollVerify {s t : State} (h : StateInv s) (hfree : ConsumerFree s) (hphase : s.pollPhase = .verify)
    (e : pollVerify s = .next t) : StateInv t := by
  obtain ⟨u, hverify, rfl⟩ := pollVerify_cases e
  have hframe := (execCkVerify_cases hverify).2
  have hu : StateInv u := by rw [hframe]; exact h.frame rfl
  have hvalid : u.rxValid = true :=
    (congrArg State.rxValid hframe :).trans (h.window.polling (by rw [hphase]; nofun))
  have hbusy : u.encBusy = false := (congrArg State.encBusy hframe :).trans hfree.1
  by_cases hmatch : u.result = .verified true
  · rw [pollAfterVerify_of_match hmatch]
    exact hu.enterPoll hvalid .dispatch
  · rw [pollAfterVerify_of_mismatch hmatch]
    exact (hu.pulsed hbusy shortErrorPulse).leavePoll.frame rfl

theorem StateInv.pollDispatch {s : State} (h : StateInv s) (hphase : s.pollPhase = .dispatch) :
    StateInv (pollDispatch s) := by
  rw [pollDispatch_eq]
  exact (h.enterPoll (h.window.polling (by rw [hphase]; nofun)) .evaluating).frame rfl

theorem StateInv.pollEvaluate {s : State} (h : StateInv s) (hfree : ConsumerFree s) : StateInv (pollEvaluate s) := by
  have hinput : ∀ rest, StateInv { s with evaluator := rest } := fun _ => h.frame rfl
  obtain heq | ⟨id, payload, rest, heq⟩ | ⟨rest, heq⟩ | ⟨rest, heq⟩ := pollEvaluate_cases s <;> rw [heq]
  · exact h
  · exact (hinput rest).sendMessage hfree.2 id payload
  · exact (hinput rest).leavePoll
  · exact (h.pulsed hfree.1 longErrorPulse).leavePoll.frame rfl

theorem StateInv.passTimeUnit {s : State} (h : StateInv s) : StateInv (passTimeUnit s) :=
  ⟨h.legal, h.queue.congr rfl rfl rfl rfl, h.decoder.congr rfl rfl rfl rfl rfl, h.window.congr rfl rfl rfl rfl rfl,
    h.encoder.congr rfl rfl rfl rfl rfl, h.memory.congr rfl rfl rfl rfl,
    ⟨fun hleft => h.pulse.blocks fun h0 => hleft (by rw [passTimeUnit_pulseLeft, h0]),
      fun hleft => h.pulse.alone fun h0 => hleft (by rw [passTimeUnit_pulseLeft, h0])⟩⟩

/-! Every transition. -/

theorem StateInv.transition {s t : State} {turn : Turn} {o : Host.Outcome State Fault Refusal} (h : StateInv s)
    (htransition : Transition s turn o) (ho : o = .next t) : StateInv t := by
  cases htransition with
  | idle => cases ho; exact h
  | refused r => cases ho
  | outside hagent hexists =>
    exact h.exec (selected_of_actionState_none s (actionState_of_agent_ne_consumer hagent)) (absurd · hagent) ho
  | arrive b => cases ho; exact h.frame rfl
  | @push b rest hserial hline =>
    have hinput : StateInv { s with line := rest } := h.frame rfl
    exact hinput.qPush ho
  | @operation i rest hfree hphase hagent hsel =>
    have hinput : StateInv { s with requests := rest } := h.frame rfl
    exact hinput.exec hsel (fun _ => ⟨hfree.2, hphase⟩) ho
  | @pollStart tick rest hfree hphase =>
    have hinput : StateInv { s with requests := rest } := h.frame rfl
    exact hinput.pollStart hfree hphase ho
  | pollVerify hfree hphase => exact h.pollVerify hfree hphase ho
  | pollDispatch hfree hphase => cases ho; exact h.pollDispatch hphase
  | pollEvaluate hfree hphase => cases ho; exact h.pollEvaluate hfree
  | accept hbusy => exact h.encByteTransition ho
  | timeUnit => cases ho; exact h.passTimeUnit

/-- Settles O9: a step makes no transition or one, from the state without the turn it took. -/
theorem stepKeepsTheInvariant : Obligations.StepKeepsTheInvariant := by
  intro s t h e
  obtain ⟨-, ho⟩ | ⟨turn, ts, -, htransition⟩ := step_cases e
  · cases ho; exact h
  · have hinput : StateInv { s with turns := ts } := h.frame rfl
    exact hinput.transition htransition rfl

end Sys2Proof.Machine
end

section
/-! No fault in a state with the invariant (20_memory.md R77). -/

namespace Sys2Proof.Machine

/-- A selected operation completes: each access that could fall outside a memory is within it by the invariant. -/
theorem exec_completes {i : Instr} {s : State} (h : StateInv s) (hsel : selected i s = true) :
    ∃ t, exec i s = .next t := by
  cases haction : actionState i with
  | some d =>
    obtain ⟨-, tick, b, -, hexec⟩ := exists_byteAction_of_selected haction hsel
    rw [hexec]
    exact byteAction_completes h.decoder tick b
  | none =>
    cases i with
    | qPush x => exact ((queueIsAFifoList s h.queue).2.1 x).imp fun _ ht => ht.1
    | qPop => exact (queueIsAFifoList s h.queue).2.2.imp fun _ ht => ht.1
    | decStep tick =>
      obtain ⟨t, -, e, -⟩ := decStepCompletes s tick h
      exact ⟨t, e⟩
    | msgRead sel idx => exact exec_msgRead_completes s sel idx
    | ckMsg id payload => exact (ckMsgComputesOrRejects s id payload).imp fun _ ht => ht.1
    | ckVerify => exact exec_ckVerify_completes h.window.len_le
    | encFrame id payload ck => exact (encFrameLatchesTheOperand s id ck payload h.legal).imp fun _ ht => ht.1
    | reset | statusRead | statusClear | decReset | ckInit | ckUpdate | ckResult | txSend | txSendEmpty | frame =>
      exact ⟨_, rfl⟩
    | _ => cases haction

theorem encByteTransition_completes {s : State} (h : StateInv s) (hbusy : s.encBusy = true) :
    ∃ t, encByteTransition s = .next t := by
  obtain ⟨t, -, e, -⟩ := byteTransitionSendsTheByteAtItsOffset s hbusy h.encoder
  exact ⟨t, (acceptTurn_busy hbusy).symm.trans e⟩

/-- A transition completes or is refused. -/
theorem Transition.ne_fault {s : State} {turn : Turn} {o : Host.Outcome State Fault Refusal}
    (htransition : Transition s turn o) (h : StateInv s) (f : Fault) : o ≠ .fault f := by
  have hcompletes : ∀ {p : Host.Outcome State Fault Refusal}, (∃ t, p = .next t) → p ≠ .fault f := by
    rintro p ⟨t, rfl⟩; nofun
  cases htransition with
  | idle | refused | arrive | pollDispatch | pollEvaluate | timeUnit => nofun
  | outside hagent hexists =>
    exact hcompletes (exec_completes h (selected_of_actionState_none s (actionState_of_agent_ne_consumer hagent)))
  | @push b rest hserial hline =>
    have hinput : StateInv { s with line := rest } := h.frame rfl
    exact hcompletes (exec_completes hinput (selected_of_actionState_none _ rfl))
  | @operation i rest hfree hphase hagent hsel =>
    have hinput : StateInv { s with requests := rest } := h.frame rfl
    exact hcompletes (exec_completes hinput hsel)
  | @pollStart tick rest hfree hphase =>
    have hinput : StateInv { s with requests := rest } := h.frame rfl
    obtain ⟨u, hu⟩ := exec_completes hinput (i := .decStep tick) (selected_of_actionState_none _ rfl)
    exact hcompletes ⟨_, pollStart_of_next hu⟩
  | pollVerify hfree hphase =>
    obtain ⟨u, hu⟩ := exec_completes h (i := .ckVerify) (selected_of_actionState_none _ rfl)
    exact hcompletes ⟨_, pollVerify_of_next hu⟩
  | accept hbusy => exact hcompletes (encByteTransition_completes h hbusy)

/-- Settles O11: so does a step. -/
theorem invariantStatesNeverFault : Obligations.InvariantStatesNeverFault := by
  intro s f h e
  obtain ⟨-, ho⟩ | ⟨turn, ts, -, htransition⟩ := step_cases e
  · cases ho
  · have hinput : StateInv { s with turns := ts } := h.frame rfl
    exact htransition.ne_fault hinput f rfl

end Sys2Proof.Machine
end

section
/-! A frame fed to the decoder byte by byte (30_encoding.md R111, 41_frame_decoder.md R170). -/

namespace Sys2Proof.Machine

/-! The decoder by itself: its byte actions in a row, with no queue and no transport. -/

/-- From `s` the decoder takes these bytes, each in a step whose tick is in time, answers these `complete` flags, and ends in
the last state. -/
inductive Decodes : List (Nat × Byte) → State → List Bool → State → Prop where
  | nil (s : State) : Decodes [] s [] s
  | cons {tick : Nat} {x : Byte} {s t v : State} {rest : List (Nat × Byte)} {flags : List Bool}
      (hin : ¬ s.timedOut tick = true) (hact : exec (actionFor s.dstate tick x) s = .next t)
      (hrest : Decodes rest t flags v) : Decodes ((tick, x) :: rest) s (t.result.complete :: flags) v

/-- `s` with the queue and the transport's bytes of `u`, and all else as in `s`. -/
def State.withQueueOf (s u : State) : State :=
  { s with qb := u.qb, qIn := u.qIn, qOut := u.qOut, qCount := u.qCount, line := u.line }

/-- R160 where the store address exists, with nothing said of the whole length. -/
theorem exec_actPayload_of_address {s : State} (b : Byte) (hne : s.remaining ≠ 0)
    (hle : s.remaining.toNat ≤ s.rxLen.toNat) (haddr : s.rxLen.toNat - s.remaining.toNat < s.params.payloadCap) :
    exec (.actPayload b) s = .next { s with
      pl := Mem.set s.pl (s.rxLen.toNat - s.remaining.toNat) b
      remaining := s.remaining - 1, rxValid := false
      dstate := if s.remaining - 1 = 0 then .checksumLow else s.dstate
      result := .stepped true false } := by
  simp only [exec, execActPayload, if_neg hne, if_neg (Nat.not_lt.mpr hle), writePl_ok b haddr]
  rfl

/-- The byte actions neither read nor write what `TryReadByte()` reads. -/
theorem byteAction_withQueueOf {tick : Nat} {b : Byte} {s t : State} (e : byteAction tick b s = .next t) (u : State) :
    byteAction tick b (s.withQueueOf u) = .next (t.withQueueOf u) := by
  rw [← exec_actionFor s.dstate tick b s rfl] at e
  rw [← exec_actionFor s.dstate tick b (s.withQueueOf u) rfl]
  cases hd : s.dstate with
  | awaitSync0 =>
    rw [hd] at e
    rcases execActAwaitSync0_cases e with ⟨hb, rfl⟩ | ⟨hb, rfl⟩
    · exact exec_actAwaitSync0_of_sync0 (s := s.withQueueOf u) tick hb
    · exact exec_actAwaitSync0_of_other (s := s.withQueueOf u) tick hb
  | awaitSync1 =>
    rw [hd] at e
    rcases execActAwaitSync1_cases e with ⟨hb, rfl⟩ | ⟨hb, rfl⟩
    · exact if_pos hb
    · exact if_neg hb
  | lengthHigh =>
    rw [hd] at e
    rcases execActLengthHigh_cases e with ⟨hzero, rfl⟩ | ⟨hlong, rfl⟩ | ⟨hzero, hfits, rfl⟩
    · exact exec_actLengthHigh_of_zero (s := s.withQueueOf u) hzero
    · exact exec_actLengthHigh_of_tooLong (s := s.withQueueOf u) hlong
    · exact exec_actLengthHigh_of_fits (s := s.withQueueOf u) hzero hfits
  | payload =>
    rw [hd] at e
    obtain ⟨hne, hle, haddr, rfl⟩ := execActPayload_cases e
    exact exec_actPayload_of_address (s := s.withQueueOf u) b hne hle haddr
  | identifierLow | identifierHigh | lengthLow | checksumLow | checksumHigh => rw [hd] at e; cases e; rfl

/-! The queue around it, empty before and after each step. -/

theorem pendingBytes_of_serial {s : State} (h : s.cfgTransport = .serialQueued) : pendingBytes s = queueBytes s := by
  simp only [pendingBytes, h]

theorem pendingBytes_of_usb {s : State} (h : s.cfgTransport = .usbDirect) : pendingBytes s = s.line := by
  simp only [pendingBytes, h]

theorem offer_of_serial {s : State} (h : s.cfgTransport = .serialQueued) (x : Byte) :
    offer x s = exec (.qPush x) s := by simp only [offer, h]

theorem offer_of_usb {s : State} (h : s.cfgTransport = .usbDirect) (x : Byte) : offer x s = .next (deliver [x] s) := by
  simp only [offer, h]

/-- A byte that comes to a block with nothing pending is the only pending byte. -/
theorem offer_of_no_byte {s : State} (h : QueueInv s) (hpending : pendingBytes s = []) (x : Byte) :
    ∃ u, offer x s = .next u ∧ QueueInv u ∧ pendingBytes u = [x] ∧ u = s.withQueueOf u := by
  cases hc : s.cfgTransport with
  | usbDirect =>
    have hline : s.line = [] := (pendingBytes_of_usb hc).symm.trans hpending
    refine ⟨_, offer_of_usb hc x, h.congr rfl rfl rfl rfl, ?_, rfl⟩
    rw [pendingBytes_of_usb (s := deliver [x] s) hc, deliver_line, hline]
    rfl
  | serialQueued =>
    have hbytes : queueBytes s = [] := (pendingBytes_of_serial hc).symm.trans hpending
    have hempty : s.qCount = 0 := by rw [← queueBytes_length s, hbytes]; rfl
    have hroom : s.qCount < s.params.queueCap := hempty ▸ h.queueCap_pos
    refine ⟨_, (offer_of_serial hc x).trans (exec_qPush_of_room x hroom h.in_lt), h.push hroom x, ?_, rfl⟩
    refine (pendingBytes_of_serial (by exact hc)).trans ?_
    rw [queueBytes_push h hroom, hbytes]
    rfl

theorem QueueInv.tryReadByte {s u : State} {r : Option Byte} (h : QueueInv s) (hread : tryReadByte s = some (r, u)) :
    QueueInv u := by
  rcases tryReadByte_cases hread with ⟨-, rfl⟩ | ⟨b, -, -, hbyte, -, -, rfl⟩ | ⟨b, rest, -, -, -, rfl⟩
  · exact h
  · exact h.pop hbyte
  · exact h.congr rfl rfl rfl rfl

theorem QueueInv.byteAction {tick : Nat} {b : Byte} {s t : State} (h : QueueInv s) (e : byteAction tick b s = .next t) :
    QueueInv t := by
  rw [(byteAction_cases e).1]
  exact h.congr rfl rfl rfl rfl

/-- One byte fed in time is one byte action, which leaves nothing pending. -/
theorem offer_then_decStep {s t : State} {tick : Nat} {x : Byte} (h : QueueInv s) (hpending : pendingBytes s = [])
    (hin : ¬ s.timedOut tick = true) (hact : byteAction tick x s = .next t) :
    ∃ u v, offer x s = .next u ∧ exec (.decStep tick) u = .next v ∧ QueueInv v ∧ pendingBytes v = [] ∧
      v = t.withQueueOf v := by
  obtain ⟨u, hoffer, hu, hupending, huframe⟩ := offer_of_no_byte h hpending x
  obtain ⟨w, hread, hwpending, -⟩ := tryReadByte_of_byte hu hupending
  have hcheck : resyncCheck tick u = u := resyncCheck_of_not_timedOut (by rw [huframe]; exact hin)
  have hwframe : w = s.withQueueOf w := by rw [(tryReadByte_pending hread).1, huframe]; rfl
  have hactw : byteAction tick x w = .next (t.withQueueOf w) := by
    have hcommutes := byteAction_withQueueOf hact w
    rwa [← hwframe] at hcommutes
  exact ⟨u, _, hoffer, (exec_decStep_of_byte (hcheck.symm ▸ hread)).trans hactw, (hu.tryReadByte hread).byteAction hactw,
    (pendingBytes_byteAction hactw).trans hwpending, rfl⟩

/-- Feeding bytes to a block with nothing pending runs its decoder on them. -/
theorem feed_of_decodes {bytes : List (Nat × Byte)} {s v : State} {flags : List Bool} (h : Decodes bytes s flags v)
    {s' : State} (hqueue : QueueInv s') (hpending : pendingBytes s' = []) (hs' : s' = s.withQueueOf s') :
    ∃ v', feed bytes s' = some (flags, v') ∧ v' = v.withQueueOf v' := by
  induction h generalizing s' with
  | nil s => exact ⟨s', rfl, hs'⟩
  | @cons tick x s t v rest flags hin hact hrest ih =>
    have hact' : byteAction tick x s' = .next (t.withQueueOf s') := by
      rw [exec_actionFor s.dstate tick x s rfl] at hact
      have hcommutes := byteAction_withQueueOf hact s'
      rwa [← hs'] at hcommutes
    obtain ⟨u, t', hoffer, hstep, hqueue', hpending', ht'⟩ :=
      offer_then_decStep hqueue hpending (by rw [hs']; exact hin) hact'
    obtain ⟨v', hfeed, hv'⟩ := ih hqueue' hpending' ht'
    refine ⟨v', ?_, hv'⟩
    have hresult : t'.result = t.result := (congrArg State.result ht' :)
    simp only [feed, hoffer, hstep, hfeed, Option.map_some, hresult]

/-! The three parts of a frame. -/

/-- One byte in a decoder state `d`, its action's answer given. -/
theorem Decodes.byte {tick : Nat} {x : Byte} {s t v : State} {rest : List (Nat × Byte)} {flags : List Bool} {c : Bool}
    (d : DState) (hd : s.dstate = d) (hin : s.dstate = .awaitSync0 ∨ s.elapsed tick ≤ s.params.resyncTicks)
    (hact : exec (actionFor d tick x) s = .next t) (hc : t.result.complete = c) (hrest : Decodes rest t flags v) :
    Decodes ((tick, x) :: rest) s (c :: flags) v := by
  subst hd hc
  exact .cons (not_timedOut_iff.mpr hin) hact hrest

/-- R159 on a length within capacity. -/
theorem exec_actLengthHigh_of_le {s : State} {b : Byte} (hfits : (withHighByte s.rxLen b).toNat ≤ s.params.payloadCap) :
    exec (.actLengthHigh b) s = .next { s with
      rxLen := withHighByte s.rxLen b, remaining := withHighByte s.rxLen b, rxValid := false
      dstate := if withHighByte s.rxLen b = 0 then .checksumLow else .payload, result := .stepped true false } := by
  by_cases hzero : withHighByte s.rxLen b = 0
  · rw [exec_actLengthHigh_of_zero hzero, if_pos hzero]
  · rw [exec_actLengthHigh_of_fits hzero hfits, if_neg hzero]

/-- The two sync bytes (R154, R155). -/
theorem decodes_sync {s v : State} {t0 t1 : Nat} {rest : List (Nat × Byte)} {flags : List Bool}
    (hd : s.dstate = .awaitSync0) (hin : { s with tMark := s.tickReg t0 }.elapsed t1 ≤ s.params.resyncTicks)
    (hrest : Decodes rest
      { s with tMark := s.tickReg t0, dstate := .identifierLow, result := .stepped true false } flags v) :
    Decodes ((t0, s.params.sync0) :: (t1, s.params.sync1) :: rest) s (false :: false :: flags) v := by
  refine .byte .awaitSync0 hd (.inl hd) (exec_actAwaitSync0_of_sync0 t0 rfl) rfl ?_
  refine .byte .awaitSync1 rfl (.inr hin) (exec_actAwaitSync1 _ _) rfl ?_
  simpa only [if_true] using hrest

/-- The identifier (R156, R157). -/
theorem decodes_identifier {s v : State} {t0 t1 : Nat} (id : Word16) {rest : List (Nat × Byte)} {flags : List Bool}
    (hd : s.dstate = .identifierLow) (hin0 : s.elapsed t0 ≤ s.params.resyncTicks)
    (hin1 : s.elapsed t1 ≤ s.params.resyncTicks)
    (hrest : Decodes rest
      { s with rxId := id, rxValid := false, dstate := .lengthLow, result := .stepped true false } flags v) :
    Decodes ((t0, lowByte id) :: (t1, highByte id) :: rest) s (false :: false :: flags) v := by
  refine .byte .identifierLow hd (.inr hin0) (exec_actIdentifierLow s _) rfl ?_
  refine .byte .identifierHigh rfl (.inr hin1) (exec_actIdentifierHigh _ _) rfl ?_
  simpa only [withHighByte_withLowByte, joinBytes_split] using hrest

/-- The length, within capacity (R158, R159). -/
theorem decodes_length {s v : State} {t0 t1 : Nat} (len : Word16) {rest : List (Nat × Byte)} {flags : List Bool}
    (hd : s.dstate = .lengthLow) (hfits : len.toNat ≤ s.params.payloadCap) (hin0 : s.elapsed t0 ≤ s.params.resyncTicks)
    (hin1 : s.elapsed t1 ≤ s.params.resyncTicks)
    (hrest : Decodes rest { s with
      rxLen := len, remaining := len, rxValid := false, dstate := if len = 0 then .checksumLow else .payload
      result := .stepped true false } flags v) :
    Decodes ((t0, lowByte len) :: (t1, highByte len) :: rest) s (false :: false :: flags) v := by
  have hlen : withHighByte (withLowByte s.rxLen (lowByte len)) (highByte len) = len := by simp
  refine .byte .lengthLow hd (.inr hin0) (exec_actLengthLow s _) rfl ?_
  refine .byte .lengthHigh rfl (.inr hin1) (exec_actLengthHigh_of_le (hlen.symm ▸ hfits)) rfl ?_
  simpa only [hlen] using hrest

/-- Where the six bytes in front of the payload leave an idle decoder. -/
def State.afterHeader (s : State) (tick : Nat) (id len : Word16) : State :=
  { s with
    tMark := s.tickReg tick, rxId := id, rxLen := len, remaining := len, rxValid := false
    dstate := if len = 0 then .checksumLow else .payload, result := .stepped true false }

theorem decodes_header {s v : State} {id len : Word16} {t0 t1 t2 t3 t4 t5 : Nat} {rest : List (Nat × Byte)}
    {flags : List Bool} (hd : s.dstate = .awaitSync0) (hfits : len.toNat ≤ s.params.payloadCap)
    (hin : ∀ tick ∈ [t1, t2, t3, t4, t5], { s with tMark := s.tickReg t0 }.elapsed tick ≤ s.params.resyncTicks)
    (hrest : Decodes rest (s.afterHeader t0 id len) flags v) :
    Decodes ((t0, s.params.sync0) :: (t1, s.params.sync1) :: (t2, lowByte id) :: (t3, highByte id) ::
      (t4, lowByte len) :: (t5, highByte len) :: rest) s
      (false :: false :: false :: false :: false :: false :: flags) v :=
  decodes_sync hd (hin t1 (by simp)) (decodes_identifier id rfl (hin t2 (by simp)) (hin t3 (by simp))
    (decodes_length len rfl hfits (hin t4 (by simp)) (hin t5 (by simp)) hrest))

/-- After the last bytes `last` of its payload and the checksum `ck`, the decoder has the message of `s` complete. -/
structure Completes (s t : State) (last : List Byte) (ck : Word16) : Prop where
  valid : t.rxValid = true
  id : t.rxId = s.rxId
  len : t.rxLen = s.rxLen
  checksum : t.rxCk = ck
  params : t.params = s.params
  stored : ∀ k, k < last.length → last[k]? = some (t.byteAt .pl (s.rxLen.toNat - last.length + k))
  kept : ∀ a, a < s.rxLen.toNat - last.length → t.byteAt .pl a = s.byteAt .pl a

/-- The checksum (R161, R162). -/
theorem decodes_checksum {s : State} {t0 t1 : Nat} (ck : Word16) (hd : s.dstate = .checksumLow)
    (hin0 : s.elapsed t0 ≤ s.params.resyncTicks) (hin1 : s.elapsed t1 ≤ s.params.resyncTicks) :
    ∃ t, Decodes [(t0, lowByte ck), (t1, highByte ck)] s [false, true] t ∧ Completes s t [] ck := by
  refine ⟨_, .byte .checksumLow hd (.inr hin0) (exec_actChecksumLow s _) rfl
    (.byte .checksumHigh rfl (.inr hin1) (exec_actChecksumHigh _ _) rfl (.nil _)), rfl, rfl, rfl, ?_, rfl, nofun, fun a _ => ?_⟩
  · simp only [withHighByte_withLowByte, joinBytes_split]
  · exact byteAt_congr (space := .pl) rfl rfl a

/-- The rest of the payload and the checksum (R160 to R162): the bytes go to the end of the message in `PL`. -/
theorem decodes_payload {s : State} {ticks : List Nat} (last : List Byte) (ck : Word16)
    (hticks : ticks.length = last.length + 2) (hin : ∀ tick ∈ ticks, s.elapsed tick ≤ s.params.resyncTicks)
    (hd : s.dstate = if last = [] then .checksumLow else .payload) (hcount : s.remaining.toNat = last.length)
    (hle : last.length ≤ s.rxLen.toNat) (hcap : s.rxLen.toNat ≤ s.params.payloadCap) :
    ∃ t, Decodes (ticks.zip (last ++ [lowByte ck, highByte ck])) s (List.replicate (last.length + 1) false ++ [true]) t ∧
      Completes s t last ck := by
  induction last generalizing s ticks with
  | nil =>
    obtain ⟨t0, t1, rfl⟩ := List.length_eq_two.mp hticks
    exact decodes_checksum ck hd (hin t0 (by simp)) (hin t1 (by simp))
  | cons x last ih =>
    obtain ⟨tick, ticks, rfl⟩ := List.exists_cons_of_length_eq_add_one hticks
    rw [List.length_cons] at hcount hle
    have hone : (s.remaining - 1).toNat = last.length := by bv_omega
    have hlast : s.remaining - 1 = 0 ↔ last = [] := by
      rw [← List.length_eq_zero_iff, ← hone]
      exact ⟨fun h => by rw [h]; rfl, fun h => BitVec.eq_of_toNat_eq h⟩
    have hstep := exec_actPayload_of_bounds x (by omega) (hcount ▸ hle) hcap
    obtain ⟨t, hdecodes, h⟩ := ih (s := { s with
        pl := Mem.set s.pl (s.rxLen.toNat - s.remaining.toNat) x, remaining := s.remaining - 1, rxValid := false
        dstate := if s.remaining - 1 = 0 then .checksumLow else s.dstate, result := .stepped true false })
      (Nat.succ.inj hticks) (fun t ht => hin t (List.mem_cons_of_mem tick ht))
      (by simp only [hlast, hd, List.cons_ne_nil, if_false]) hone (by exact Nat.le_of_succ_le hle) hcap
    refine ⟨t, .byte .payload hd (.inr (hin tick (by simp))) hstep rfl hdecodes, h.valid, h.id, h.len, h.checksum, h.params,
      fun k hk => ?stored, fun a ha => ?kept⟩
    case stored =>
      cases k with
      | zero =>
        have hfirst : t.byteAt .pl (s.rxLen.toNat - (last.length + 1)) = x :=
          (h.kept _ (by show _ < s.rxLen.toNat - last.length; omega)).trans
            ((byteAt_setPl s _ _ x).trans (if_pos (by rw [hcount])))
        exact congrArg some hfirst.symm
      | succ k =>
        have hnext := h.stored k (Nat.lt_of_succ_lt_succ hk)
        have hindex : s.rxLen.toNat - (last.length + 1) + (k + 1) = s.rxLen.toNat - last.length + k := by omega
        rw [List.getElem?_cons_succ, List.length_cons, hindex]
        exact hnext
    case kept =>
      rw [List.length_cons] at ha
      refine (h.kept a (by show a < s.rxLen.toNat - last.length; omega)).trans ((byteAt_setPl s _ a x).trans (if_neg ?_))
      omega

/-- The ticks of a frame's header, and those of the rest. -/
theorem exists_header_ticks {ticks : List Nat} {n : Nat} (h : ticks.length = n + 8) :
    ∃ t0 t1 t2 t3 t4 t5 rest, ticks = t0 :: t1 :: t2 :: t3 :: t4 :: t5 :: rest ∧ rest.length = n + 2 := by
  match ticks, h with
  | t0 :: t1 :: t2 :: t3 :: t4 :: t5 :: rest, h =>
    exact ⟨t0, t1, t2, t3, t4, t5, rest, rfl, by simpa using h⟩

/-- A frame within capacity, from an idle decoder. -/
theorem decodes_frame {s : State} {ticks : List Nat} (id ck : Word16) {payload : List Byte}
    (hd : s.dstate = .awaitSync0) (hlen : payload.length < 65536) (hfits : payload.length ≤ s.params.payloadCap)
    (hticks : ticks.length = payload.length + 8)
    (hin : ∀ tick ∈ ticks, { s with tMark := s.tickReg ticks.head! }.elapsed tick ≤ s.params.resyncTicks) :
    ∃ t, Decodes (ticks.zip (frameBytes s.params.sync0 s.params.sync1 id payload ck)) s
        (List.replicate (payload.length + 7) false ++ [true]) t ∧
      Completes (s.afterHeader ticks.head! id (lenField payload)) t payload ck := by
  have hlenNat : (lenField payload).toNat = payload.length := lenField_toNat payload hlen
  have hempty : lenField payload = 0 ↔ payload = [] := by
    rw [← List.length_eq_zero_iff, ← hlenNat]
    exact ⟨fun h => by rw [h]; rfl, fun h => BitVec.eq_of_toNat_eq h⟩
  obtain ⟨t0, t1, t2, t3, t4, t5, rest, rfl, hrest⟩ := exists_header_ticks hticks
  obtain ⟨t, hdecodes, hcompletes⟩ := decodes_payload (s := s.afterHeader t0 id (lenField payload)) payload ck hrest
    (fun tick ht => hin tick (by simp [ht])) (by simp only [State.afterHeader, hempty]) hlenNat hlenNat.ge
    (by exact hlenNat.trans_le hfits)
  refine ⟨t, ?_, hcompletes⟩
  rw [frameBytes_eq_prefix_payload_checksum]
  exact decodes_header hd (hlenNat.trans_le hfits) (fun tick ht => hin tick (List.mem_cons_of_mem t0
    (List.mem_append_left rest ht))) hdecodes

/-- Settles O39: the decoder run on the frame's bytes alone receives the message, feeding the block runs its decoder so, and
`CK_VERIFY` then compares what it says it compares. -/
theorem fedFrameIsReceived : Obligations.FedFrameIsReceived := by
  intro s id ck payload ticks h hd hpending hfits hticks hin
  have hlen : payload.length < 65536 := by have := h.legal.1; omega
  have hlenNat : (lenField payload).toNat = payload.length := lenField_toNat payload hlen
  obtain ⟨v, hdecodes, hvalid, hid, hlenv, hck, hvparams, hstored, -⟩ := decodes_frame id ck hd hlen hfits hticks hin
  obtain ⟨t, hfeed, ht⟩ := feed_of_decodes hdecodes h.queue hpending rfl
  have hparams : t.params = s.params := (congrArg State.params ht :).trans hvparams
  have htvalid : t.rxValid = true := (congrArg State.rxValid ht :).trans hvalid
  have htid : t.rxId = id := (congrArg State.rxId ht :).trans hid
  have htlen : t.rxLen = lenField payload := (congrArg State.rxLen ht :).trans hlenv
  have htck : t.rxCk = ck := (congrArg State.rxCk ht :).trans hck
  have htlenNat : t.rxLen.toNat = payload.length := by rw [htlen, hlenNat]
  have htstored : ∀ k, k < payload.length → payload[k]? = some (t.byteAt .pl k) := fun k hk => by
    have hsame : t.byteAt .pl k = v.byteAt .pl k :=
      byteAt_congr (space := .pl) (s := v) (t := t) (congrArg State.pl ht :) (congrArg State.epoch ht :) k
    have hfirst : (lenField payload).toNat - payload.length + k = k := by omega
    rw [hsame, hstored k hk]
    exact congrArg (fun a => some (v.byteAt .pl a)) hfirst
  obtain ⟨u, hverify, hsum, hresult, -⟩ :=
    ckVerifyComparesWithTheReceivedChecksum.1 t htvalid (by rw [htlenNat, hparams]; exact hfits)
  refine ⟨t, hfeed, htvalid, htid, htlenNat, htck, htstored, u, hverify, ?_⟩
  have hpayload : (List.range t.rxLen.toNat).map (t.byteAt .pl) = payload := by
    rw [htlenNat]
    refine List.ext_getElem (by simp) fun k hk hk' => ?_
    have hbyte := htstored k hk'
    rw [List.getElem?_eq_getElem hk'] at hbyte
    simpa using (Option.some.inj hbyte).symm
  rw [hresult, hsum, hpayload, htid, htlen, htck]
  rfl

end Sys2Proof.Machine
end
